-- ==== Sys2Proof/Word.lean ====
section
/-! DEFINITION. The word types of the block (spec 00_scope R7, 30_encoding R100). -/

namespace Sys2Proof

/-- One byte, the smallest addressable unit (20 R70). -/
abbrev Byte := BitVec 8

/-- A 16-bit value of the bus. -/
abbrev Half := BitVec 16

/-- A 32-bit value: the long bus transaction, a command's argument, a CPU register. -/
abbrev Long := BitVec 32

/-- A bus address, 24 bits (20 R70). -/
abbrev Addr := BitVec 24

/-- The 28-bit address field of a bus transaction word (30 R100). -/
abbrev WideAddr := BitVec 28

/-- A transaction word TW (30 R100). -/
abbrev TxWord := BitVec 64

end Sys2Proof
end

