-- ==== Sys2Proof/Config.lean ====
section
/-! DEFINITION. The implementation parameters of spec 00_scope R5, and the constraints of R6.
A parameter to which R5 gives one value is a constant; one with a named alternative is a field of
`Params`, which State holds (log 3); the two tables R5 leaves OPEN are constants without a body (log 4). -/

namespace Sys2Proof.Config

/-! ## Clocks -/

/-- `YM_CLOCK` (D2). -/
abbrev ymClock : Nat := 2000000

/-- `F_INT = YM_CLOCK div 8` (41 R160). -/
abbrev fInt : Nat := ymClock / 8

/-- `CPU_CLOCK` (D3). -/
abbrev cpuClock : Nat := 8000000

/-- `FRAME_CYCLES = CPU_CLOCK div 50`: one slice of a bounded execution (D3). -/
abbrev frameCycles : Nat := cpuClock / 50

/-- `MFP_CLOCK` (D4). -/
abbrev mfpClock : Nat := 2457600

/-! ## Address map (20 R72) -/

/-- `RAM_SIZE` (D6). -/
abbrev ramSize : Nat := 0x400000

abbrev psgBase : Nat := 0xFF8800
abbrev psgSize : Nat := 0x100
abbrev dmaBase : Nat := 0xFF8900
abbrev dmaSize : Nat := 0x40
abbrev mfpBase : Nat := 0xFFFA00
abbrev mfpSize : Nat := 0x40

/-- `LOAD_ADDR`: where the module image is copied (D52). -/
abbrev loadAddr : Nat := 0x010000

/-- `STACK_TOP` (D44). -/
abbrev stackTop : Nat := 0x010000

/-- `SENTINEL_RTS` and `SENTINEL_RTE` (D44). -/
abbrev sentinelRts : Nat := 0x000500
abbrev sentinelRte : Nat := 0x000502

/-- `COOKIE_PTR_ADDR` and `COOKIE_JAR_ADDR` (D44). -/
abbrev cookiePtrAddr : Nat := 0x0005A0
abbrev cookieJarAddr : Nat := 0x000600

/-- `BUMP_BASE = RAM_SIZE - 0x100000` (D49). -/
abbrev bumpBase : Nat := ramSize - 0x100000

/-! ## Sound -/

/-- `PSG_CEILING` (D23). -/
abbrev psgCeiling : Nat := 32767

/-- `DC_LEN`, the window of the DC-removal filter (D26). -/
abbrev dcLen : Nat := 2048

/-- `DMA_GAIN` (D28). -/
abbrev dmaGain : Int := 64

/-- `DMA_RATE[r]`, in frames per second (D42). -/
def dmaRate (r : BitVec 2) : Nat :=
  if r = 0 then 6258 else if r = 1 then 12517 else if r = 2 then 25033 else 50066

/-- `PRESCALE[1..7]`, in timer clocks a count; 0 stands for the other mode values (30 R108, 43 R240). -/
def prescaleOf (m : Nat) : Nat :=
  match m with
  | 1 => 4
  | 2 => 10
  | 3 => 16
  | 4 => 50
  | 5 => 64
  | 6 => 100
  | 7 => 200
  | _ => 0

/-! ## Services and budgets -/

/-- `OS_VERSION` (D50). -/
abbrev osVersion : Long := 0x1500

/-- `INIT_TIMEOUT_FRAMES` (D51). -/
abbrev initTimeoutFrames : Nat := 500

/-- `IRQ_TIMEOUT_FRAMES` (45 R362). -/
abbrev irqTimeoutFrames : Nat := 1

/-- `TICK_TIMEOUT_FRAMES = max(1, ceil(50 / tickRate))` (D51). -/
def tickTimeoutFrames (tickRate : Nat) : Nat :=
  max 1 ((50 + tickRate - 1) / tickRate)

/-! ## The parameters with alternatives -/

/-- `ENV_CADENCE`: the envelope advances on half-ticks, or on every tick (41 R166, D20). -/
inductive EnvCadence where
  | half
  | full
deriving DecidableEq, Repr

/-- `ENV_ALT_MODE` (41 R166, D18). -/
inductive EnvAltMode where
  | mirror
  | literal
deriving DecidableEq, Repr

/-- `MIX_MODE` (41 R171, D23). -/
inductive MixMode where
  | measured
  | linear
deriving DecidableEq, Repr

/-- `DOWNSAMPLE` (42 R202, R203, D24). -/
inductive Downsample where
  | maxHold
  | linearAverage
deriving DecidableEq, Repr

/-- The parameters of R5 that have a named alternative. Plain data, fixed for a machine: no step
changes them. -/
structure Params where
  /-- `TONE_EDGE_INIT`, bit v for voice v -/
  toneEdgeInit : BitVec 3
  envCadence   : EnvCadence
  envAltMode   : EnvAltMode
  mixMode      : MixMode
  downsample   : Downsample
  /-- `ISR_GATING` -/
  isrGating    : Bool
  /-- `GPIP_IN`, the input pins -/
  gpipIn       : Byte
deriving DecidableEq, Repr

/-- The defaults of R5. -/
def Params.default : Params where
  toneEdgeInit := 0
  envCadence   := .half
  envAltMode   := .mirror
  mixMode      := .measured
  downsample   := .maxHold
  isrGating    := false
  gpipIn       := 0xFF

/-! ## The OPEN tables (41 R171, 91 N-41-3) -/

/-- `MIX_TABLE`: no values are in the source. The type bounds each entry by `PSG_CEILING` (R6). -/
opaque mixTable : BitVec 12 → Fin (psgCeiling + 1)

/-- `VOL_TABLE` but for its entry 0. The type bounds each entry by `PSG_CEILING div 3` (R6). -/
opaque volTableOpen : BitVec 5 → Fin (psgCeiling / 3 + 1)

/-- The two tables a level is mixed from. The operations take them as an argument, so that a test
can use the stand-in table of 95_test_vectors section 0. -/
structure Tables where
  mix : BitVec 12 → Fin (psgCeiling + 1)
  vol : BitVec 5 → Fin (psgCeiling / 3 + 1)

/-- The machine's own tables: `VOL_TABLE[0] = 0` (R5), everything else OPEN. -/
def tables : Tables where
  mix := mixTable
  vol := fun l => if l = 0 then 0 else volTableOpen l

/-! ## The constraints of R6 -/

/-- What R6 asks of the constants. The table bounds stand in the tables' types, and the bound on
`HOST_RATE` is checked by Startup (45 R331). -/
def valid : Bool :=
  decide (1 ≤ dcLen)
    && decide (loadAddr < ramSize) && decide (stackTop < ramSize) && decide (bumpBase < ramSize)
    && decide (loadAddr % 2 = 0) && decide (stackTop % 2 = 0) && decide (bumpBase % 2 = 0)
    && decide (ramSize ≤ psgBase)

/-- The bound of R6 on `HOST_RATE`. -/
def hostRateOk (r : Nat) : Bool :=
  decide (1 ≤ r) && decide (r ≤ fInt)

end Sys2Proof.Config
end

