-- ==== Sys2Proof/Syntax.lean ====
section
/-! DEFINITION. The instructions of the block: one constructor per row of spec/opcode_table.json
(30_encoding R100 to R114). Fields hold the operands, already taken out of the transaction word. -/

namespace Sys2Proof

/-- The three voices of the PSG (30 R107: A = 0, B = 1, C = 2). -/
inductive Voice where
  | a
  | b
  | c
deriving DecidableEq, Repr

/-- The four timers (10 R31: 0 = A, 1 = B, 2 = C, 3 = D). -/
inductive Timer where
  | a
  | b
  | c
  | d
deriving DecidableEq, Repr

/-- The width of a byte or word transaction (30 R102). -/
inductive Width where
  | byte
  | word
deriving DecidableEq, Repr

/-- The write data of a byte or word transaction, right-aligned in the data field (30 R100). -/
inductive WriteData where
  | byte (v : Byte)
  | word (v : Half)
deriving DecidableEq, Repr

/-- A bus transaction but for its address: direction, size and write data (30 R100). -/
inductive BusOp where
  | readByte
  | readWord
  | readLong
  | writeByte (v : Byte)
  | writeWord (v : Half)
  | writeLong (v : Long)
deriving DecidableEq, Repr

/-- The 24 registers of the timer unit, in the order of 10 R30. -/
inductive MfpReg where
  | gpip
  | aer
  | ddr
  | iera
  | ierb
  | ipra
  | iprb
  | isra
  | isrb
  | imra
  | imrb
  | vr
  | tacr
  | tbcr
  | tcdcr
  | tadr
  | tbdr
  | tcdr
  | tddr
  | scr
  | ucr
  | rsr
  | tsr
  | udr
deriving DecidableEq, Repr

/-- The writable byte registers of the DMA window (30 R106). -/
inductive DmaReg where
  | ctrl
  | startH
  | startM
  | startL
  | endH
  | endM
  | endL
  | mode
  | mwDataH
  | mwDataL
  | mwMaskH
  | mwMaskL
deriving DecidableEq, Repr

/-- The operations of the block. -/
inductive Instr where
  /-- `ADDRVIOL.A24` (20 R79) -/
  | addrviolA24 (op : BusOp) (addr : WideAddr)
  /-- `ADDRVIOL.A25` (20 R79) -/
  | addrviolA25 (op : BusOp) (addr : WideAddr)
  /-- `ADDRVIOL.A26` (20 R79) -/
  | addrviolA26 (op : BusOp) (addr : WideAddr)
  /-- `ADDRVIOL.A27` (20 R79) -/
  | addrviolA27 (op : BusOp) (addr : WideAddr)
  /-- `BUS.RD.L` (20 R78) -/
  | busRdL (addr : Addr)
  /-- `BUS.WR.L` (20 R78) -/
  | busWrL (addr : Addr) (data : Long)
  /-- `RAM.RD.B` (20 R74) -/
  | ramRdB (addr : BitVec 22)
  /-- `RAM.RD.W` (20 R75) -/
  | ramRdW (addr : BitVec 22)
  /-- `RAM.WR.B` (20 R77) -/
  | ramWrB (addr : BitVec 22) (data : Byte)
  /-- `RAM.WR.W` (20 R77) -/
  | ramWrW (addr : BitVec 22) (data : Half)
  /-- `PSG.SELECT.B` (40 R130) -/
  | psgSelectB (off : Byte) (b : Byte)
  /-- `PSG.SELECT.W` (40 R130) -/
  | psgSelectW (off : Byte) (b : Byte)
  /-- `PSG.DATA.B` (40 R132) -/
  | psgDataB (off : Byte) (b : Byte)
  /-- `PSG.DATA.W` (40 R132) -/
  | psgDataW (off : Byte) (b : Byte)
  /-- `PSG.READ.B` (40 R133) -/
  | psgReadB (off : Byte)
  /-- `PSG.READ.W` (40 R133) -/
  | psgReadW (off : Byte)
  /-- `DMA.WR.CTRL` (44 R302) -/
  | dmaWrCtrl (b : Byte)
  /-- `DMA.WR.START.H` (44 R301) -/
  | dmaWrStartH (b : Byte)
  /-- `DMA.WR.START.M` (44 R301) -/
  | dmaWrStartM (b : Byte)
  /-- `DMA.WR.START.L` (44 R301) -/
  | dmaWrStartL (b : Byte)
  /-- `DMA.WR.END.H` (44 R301) -/
  | dmaWrEndH (b : Byte)
  /-- `DMA.WR.END.M` (44 R301) -/
  | dmaWrEndM (b : Byte)
  /-- `DMA.WR.END.L` (44 R301) -/
  | dmaWrEndL (b : Byte)
  /-- `DMA.WR.MODE` (44 R304) -/
  | dmaWrMode (b : Byte)
  /-- `DMA.WR.MWDATA.B` (44 R300) -/
  | dmaWrMwdataB (low : Bool) (b : Byte)
  /-- `DMA.WR.MWMASK.B` (44 R300) -/
  | dmaWrMwmaskB (low : Bool) (b : Byte)
  /-- `DMA.WR.DROP.B` (44 R305) -/
  | dmaWrDropB (off : BitVec 6) (b : Byte)
  /-- `DMA.WR.MWDATA.W` (44 R300) -/
  | dmaWrMwdataW (w : Half)
  /-- `DMA.WR.MWMASK.W` (44 R300) -/
  | dmaWrMwmaskW (w : Half)
  /-- `DMA.WR.W` (44 R305) -/
  | dmaWrW (off : BitVec 6) (w : Half)
  /-- `DMA.RD.B` (44 R303) -/
  | dmaRdB (off : BitVec 6)
  /-- `DMA.RD.W` (44 R303) -/
  | dmaRdW (off : BitVec 6)
  /-- `MFP.WR.GPIP` (43 R249) -/
  | mfpWrGpip (b : Byte)
  /-- `MFP.WR.AER` (43 R249) -/
  | mfpWrAer (b : Byte)
  /-- `MFP.WR.DDR` (43 R249) -/
  | mfpWrDdr (b : Byte)
  /-- `MFP.WR.IERA` (43 R250) -/
  | mfpWrIera (b : Byte)
  /-- `MFP.WR.IERB` (43 R250) -/
  | mfpWrIerb (b : Byte)
  /-- `MFP.WR.IPRA` (43 R251) -/
  | mfpWrIpra (b : Byte)
  /-- `MFP.WR.IPRB` (43 R251) -/
  | mfpWrIprb (b : Byte)
  /-- `MFP.WR.ISRA` (43 R252) -/
  | mfpWrIsra (b : Byte)
  /-- `MFP.WR.ISRB` (43 R252) -/
  | mfpWrIsrb (b : Byte)
  /-- `MFP.WR.IMRA` (43 R253) -/
  | mfpWrImra (b : Byte)
  /-- `MFP.WR.IMRB` (43 R253) -/
  | mfpWrImrb (b : Byte)
  /-- `MFP.WR.VR` (43 R254) -/
  | mfpWrVr (b : Byte)
  /-- `MFP.WR.TACR` (43 R241) -/
  | mfpWrTacr (b : Byte)
  /-- `MFP.WR.TBCR` (43 R241) -/
  | mfpWrTbcr (b : Byte)
  /-- `MFP.WR.TCDCR` (43 R241) -/
  | mfpWrTcdcr (b : Byte)
  /-- `MFP.WR.TADR` (43 R246) -/
  | mfpWrTadr (b : Byte)
  /-- `MFP.WR.TBDR` (43 R246) -/
  | mfpWrTbdr (b : Byte)
  /-- `MFP.WR.TCDR` (43 R246) -/
  | mfpWrTcdr (b : Byte)
  /-- `MFP.WR.TDDR` (43 R246) -/
  | mfpWrTddr (b : Byte)
  /-- `MFP.WR.SCR` (43 R249) -/
  | mfpWrScr (b : Byte)
  /-- `MFP.WR.UCR` (43 R249) -/
  | mfpWrUcr (b : Byte)
  /-- `MFP.WR.RSR` (43 R249) -/
  | mfpWrRsr (b : Byte)
  /-- `MFP.WR.TSR` (43 R249) -/
  | mfpWrTsr (b : Byte)
  /-- `MFP.WR.UDR` (43 R249) -/
  | mfpWrUdr (b : Byte)
  /-- `MFP.WR.DROP.B` (30 R105) -/
  | mfpWrDropB (off : BitVec 6) (b : Byte)
  /-- `MFP.WR.W` (30 R105) -/
  | mfpWrW (off : BitVec 6) (w : Half)
  /-- `MFP.RD.B` (43 R247) -/
  | mfpRdB (off : BitVec 6)
  /-- `MFP.RD.W` (43 R247) -/
  | mfpRdW (off : BitVec 6)
  /-- `UNMAPPED.RD` (20 R76) -/
  | unmappedRd (size : Width) (addr : Addr)
  /-- `UNMAPPED.WR` (20 R76) -/
  | unmappedWr (data : WriteData) (addr : Addr)
  /-- `CMD.Startup` (45 R331) -/
  | cmdStartup (hostRate : Long)
  /-- `CMD.Load` (45 R370) -/
  | cmdLoad (defaultDurationSeconds : Long)
  /-- `CMD.GetSubsongInfo` (45 R371) -/
  | cmdGetSubsongInfo (id : Long)
  /-- `CMD.InitSubSong` (45 R372) -/
  | cmdInitSubSong (id : Long)
  /-- `CMD.AudioRender` (45 R374) -/
  | cmdAudioRender (n : Long)
  /-- `CMD.RunUntilReturn` (45 R340) -/
  | cmdRunUntilReturn
  /-- `CMD.ComputeNextSample` (45 R360) -/
  | cmdComputeNextSample
  /-- `CMD.PSG.WriteRegister` (40 R134) -/
  | cmdPsgWriteRegister (index : Byte) (value : Byte)
  /-- `CMD.PSG.Tick` (41 R170) -/
  | cmdPsgTick
  /-- `CMD.PSG.ComputeNextSample` (42 R200) -/
  | cmdPsgComputeNextSample
  /-- `CMD.PSG.InsideTimerIrq` (42 R210) -/
  | cmdPsgInsideTimerIrq (flag : Bool)
  /-- `CMD.PSG.Reset` (70 R441) -/
  | cmdPsgReset
  /-- `CMD.Timer.Tick` (43 R260) -/
  | cmdTimerTick (t : Timer)
  /-- `CMD.Timer.Reset` (70 R442) -/
  | cmdTimerReset
  /-- `CMD.Timer.Acknowledge` (43 R263) -/
  | cmdTimerAcknowledge (t : Timer)
  /-- `CMD.Timer.Event` (43 R261) -/
  | cmdTimerEvent (t : Timer)
  /-- `CMD.DMA.ComputeNextSample` (44 R310) -/
  | cmdDmaComputeNextSample
  /-- `CMD.DMA.Reset` (70 R443) -/
  | cmdDmaReset
  /-- `CB.RESET` (45 R344) -/
  | cbReset (pc : Addr)
  /-- `CB.ILLEGAL` (45 R345) -/
  | cbIllegal (opcode : Half)
  /-- `CB.GEMDOS` (45 R350) -/
  | cbGemdos (fn : Half)
deriving DecidableEq, Repr

end Sys2Proof
end

