-- ==== Sys2Proof/Decode.lean ====
section
/-! DEFINITION. The decoder of transaction words, total and rejecting by name (30_encoding R100 to
R114), the address decode it shares with the bus (20_memory R72), and the encoder. -/

namespace Sys2Proof

/-! ## The address map (20 R72, R103) -/

/-- The region a 24-bit address falls in, with the offset inside it. -/
inductive Region where
  | ram (a : BitVec 22)
  | psg (off : BitVec 8)
  | dma (off : BitVec 6)
  | mfp (off : BitVec 6)
  | unmapped
deriving DecidableEq, Repr

/-- The region of an address (20 R72; with `RAM_SIZE` = 0x400000 a RAM address has 22 bits, 30 R103).
The offset of a device window is the address less the window's base (20 R73). -/
def regionOf (a : Addr) : Region :=
  if a.toNat < Config.ramSize then .ram (a.extractLsb' 0 22)
  else if Config.psgBase ≤ a.toNat ∧ a.toNat < Config.psgBase + Config.psgSize then
    .psg (a.extractLsb' 0 8)
  else if Config.dmaBase ≤ a.toNat ∧ a.toNat < Config.dmaBase + Config.dmaSize then
    .dma (a.extractLsb' 0 6)
  else if Config.mfpBase ≤ a.toNat ∧ a.toNat < Config.mfpBase + Config.mfpSize then
    .mfp (a.extractLsb' 0 6)
  else .unmapped

/-! ## Register offsets inside the windows -/

/-- Register k of 10 R30 sits at the odd offset 2k + 1 (30 R105). -/
def MfpReg.offset : MfpReg → BitVec 6
  | .gpip => 0x01
  | .aer => 0x03
  | .ddr => 0x05
  | .iera => 0x07
  | .ierb => 0x09
  | .ipra => 0x0B
  | .iprb => 0x0D
  | .isra => 0x0F
  | .isrb => 0x11
  | .imra => 0x13
  | .imrb => 0x15
  | .vr => 0x17
  | .tacr => 0x19
  | .tbcr => 0x1B
  | .tcdcr => 0x1D
  | .tadr => 0x1F
  | .tbdr => 0x21
  | .tcdr => 0x23
  | .tddr => 0x25
  | .scr => 0x27
  | .ucr => 0x29
  | .rsr => 0x2B
  | .tsr => 0x2D
  | .udr => 0x2F

/-- Every register of the timer unit. -/
def MfpReg.all : List MfpReg :=
  [.gpip, .aer, .ddr, .iera, .ierb, .ipra, .iprb, .isra,
   .isrb, .imra, .imrb, .vr, .tacr, .tbcr, .tcdcr, .tadr,
   .tbdr, .tcdr, .tddr, .scr, .ucr, .rsr, .tsr, .udr]

/-- The register a byte access at an offset reaches; an even offset, and an odd one past 0x2F, reach
none (30 R105). -/
def MfpReg.ofOffset (off : BitVec 6) : Option MfpReg :=
  MfpReg.all.find? fun r => r.offset == off

/-- The offsets of 30 R106. -/
def DmaReg.offset : DmaReg → BitVec 6
  | .ctrl => 0x01
  | .startH => 0x03
  | .startM => 0x05
  | .startL => 0x07
  | .endH => 0x0F
  | .endM => 0x11
  | .endL => 0x13
  | .mode => 0x21
  | .mwDataH => 0x22
  | .mwDataL => 0x23
  | .mwMaskH => 0x24
  | .mwMaskL => 0x25

/-- Every writable byte register of the DMA window. -/
def DmaReg.all : List DmaReg :=
  [.ctrl, .startH, .startM, .startL, .endH, .endM, .endL, .mode, .mwDataH, .mwDataL, .mwMaskH, .mwMaskL]

/-- The register a byte write at an offset reaches. The frame counter (0x09, 0x0B, 0x0D) and the
unassigned offsets reach none: the write is dropped (44 R305). -/
def DmaReg.ofOffset (off : BitVec 6) : Option DmaReg :=
  DmaReg.all.find? fun r => r.offset == off

/-! ## Fields of a transaction word (30 R100) -/

/-- Why a word decodes to `Reserved` (30 R114). -/
inductive DecodeError where
  /-- A reserved field of a command or callback word is not 0. -/
  | reservedField
  /-- `sz` = 11. -/
  | reservedSize
  /-- A command or callback code that 30 R112 and R113 do not list. -/
  | unlistedCode
  /-- A word or long transaction at an odd address (20 R80). -/
  | oddAddress
deriving DecidableEq, Repr

def clsField (w : TxWord) : BitVec 2 := w.extractLsb' 62 2
def szField (w : TxWord) : BitVec 2 := w.extractLsb' 60 2
def addrField (w : TxWord) : WideAddr := w.extractLsb' 32 28
def dataField (w : TxWord) : Long := w.extractLsb' 0 32
def reservedHigh (w : TxWord) : BitVec 6 := w.extractLsb' 56 6
def codeField (w : TxWord) : Byte := w.extractLsb' 48 8
def reservedLow (w : TxWord) : Half := w.extractLsb' 32 16
def argField (w : TxWord) : Long := w.extractLsb' 0 32

/-- A bus word from its fields. -/
def busWord (cls sz : BitVec 2) (addr : WideAddr) (data : Long) : TxWord :=
  cls ++ sz ++ addr ++ data

/-- A command or callback word from its fields, the reserved ones 0. -/
def commandWord (cls : BitVec 2) (code : Byte) (arg : Long) : TxWord :=
  cls ++ (0 : BitVec 6) ++ code ++ (0 : Half) ++ arg

/-- The timer a 2-bit index names (10 R31). -/
def Timer.ofBits (b : BitVec 2) : Timer :=
  if b = 0 then .a else if b = 1 then .b else if b = 2 then .c else .d

/-- The index of a timer. -/
def Timer.toBits : Timer → BitVec 2
  | .a => 0
  | .b => 1
  | .c => 2
  | .d => 3

/-! ## Bus words -/

/-- Whether the transaction may stand at the address: a word or long needs `addr[0]` = 0 (30 R102). -/
def BusOp.alignedAt (op : BusOp) (addr : WideAddr) : Bool :=
  match op with
  | .readByte | .writeByte _ => true
  | _ => !addr.getLsbD 0

/-- Direction, size and data of a bus word; data bits above the size, and the data of a read, are
ignored (30 R100). -/
def busOpOf (isWrite : Bool) (sz : BitVec 2) (data : Long) : Except DecodeError BusOp :=
  if sz = 0 then .ok (if isWrite then .writeByte (data.extractLsb' 0 8) else .readByte)
  else if sz = 1 then .ok (if isWrite then .writeWord (data.extractLsb' 0 16) else .readWord)
  else if sz = 2 then .ok (if isWrite then .writeLong data else .readLong)
  else .error .reservedSize

/-- The row of a byte write to a timer-unit register. -/
def mfpWriteRow (b : Byte) : MfpReg → Instr
  | .gpip => .mfpWrGpip b
  | .aer => .mfpWrAer b
  | .ddr => .mfpWrDdr b
  | .iera => .mfpWrIera b
  | .ierb => .mfpWrIerb b
  | .ipra => .mfpWrIpra b
  | .iprb => .mfpWrIprb b
  | .isra => .mfpWrIsra b
  | .isrb => .mfpWrIsrb b
  | .imra => .mfpWrImra b
  | .imrb => .mfpWrImrb b
  | .vr => .mfpWrVr b
  | .tacr => .mfpWrTacr b
  | .tbcr => .mfpWrTbcr b
  | .tcdcr => .mfpWrTcdcr b
  | .tadr => .mfpWrTadr b
  | .tbdr => .mfpWrTbdr b
  | .tcdr => .mfpWrTcdr b
  | .tddr => .mfpWrTddr b
  | .scr => .mfpWrScr b
  | .ucr => .mfpWrUcr b
  | .rsr => .mfpWrRsr b
  | .tsr => .mfpWrTsr b
  | .udr => .mfpWrUdr b

/-- The row of a byte write to a DMA register. -/
def dmaWriteRow (b : Byte) : DmaReg → Instr
  | .ctrl => .dmaWrCtrl b
  | .startH => .dmaWrStartH b
  | .startM => .dmaWrStartM b
  | .startL => .dmaWrStartL b
  | .endH => .dmaWrEndH b
  | .endM => .dmaWrEndM b
  | .endL => .dmaWrEndL b
  | .mode => .dmaWrMode b
  | .mwDataH => .dmaWrMwdataB false b
  | .mwDataL => .dmaWrMwdataB true b
  | .mwMaskH => .dmaWrMwmaskB false b
  | .mwMaskL => .dmaWrMwmaskB true b

/-- The row of a byte read (20 R74). -/
def readByteRow (a : Addr) : Instr :=
  match regionOf a with
  | .ram x => .ramRdB x
  | .psg off => .psgReadB off
  | .dma off => .dmaRdB off
  | .mfp off => .mfpRdB off
  | .unmapped => .unmappedRd .byte a

/-- The row of a word read at an even address (20 R75). -/
def readWordRow (a : Addr) : Instr :=
  match regionOf a with
  | .ram x => .ramRdW x
  | .psg off => .psgReadW off
  | .dma off => .dmaRdW off
  | .mfp off => .mfpRdW off
  | .unmapped => .unmappedRd .word a

/-- The row of a byte write (20 R77): offset bit 1 of the PSG window selects the port (30 R104). -/
def writeByteRow (a : Addr) (v : Byte) : Instr :=
  match regionOf a with
  | .ram x => .ramWrB x v
  | .psg off => if off.getLsbD 1 then .psgDataB off v else .psgSelectB off v
  | .dma off => ((DmaReg.ofOffset off).map (dmaWriteRow v)).getD (.dmaWrDropB off v)
  | .mfp off => ((MfpReg.ofOffset off).map (mfpWriteRow v)).getD (.mfpWrDropB off v)
  | .unmapped => .unmappedWr (.byte v) a

/-- The row of a word write at an even address (20 R77). A word write to the PSG window carries its
byte in `data[15:8]` (30 R104). -/
def writeWordRow (a : Addr) (v : Half) : Instr :=
  match regionOf a with
  | .ram x => .ramWrW x v
  | .psg off =>
    if off.getLsbD 1 then .psgDataW off (v.extractLsb' 8 8) else .psgSelectW off (v.extractLsb' 8 8)
  | .dma off => if off = 0x22 then .dmaWrMwdataW v else if off = 0x24 then .dmaWrMwmaskW v else .dmaWrW off v
  | .mfp off => .mfpWrW off v
  | .unmapped => .unmappedWr (.word v) a

/-- The row of a bus transaction at a 24-bit address, in the order of 30 R114: long rows first. -/
def busRow (op : BusOp) (a : Addr) : Instr :=
  match op with
  | .readLong => .busRdL a
  | .writeLong v => .busWrL a v
  | .readByte => readByteRow a
  | .readWord => readWordRow a
  | .writeByte v => writeByteRow a v
  | .writeWord v => writeWordRow a v

/-- A bus transaction: the Reserved check, then the address width (20 R79, lowest offending bit
first, as the table's order has it), then the region. -/
def decodeBus (op : BusOp) (addr : WideAddr) : Except DecodeError Instr :=
  if !op.alignedAt addr then .error .oddAddress
  else if addr.getLsbD 24 then .ok (.addrviolA24 op addr)
  else if addr.getLsbD 25 then .ok (.addrviolA25 op addr)
  else if addr.getLsbD 26 then .ok (.addrviolA26 op addr)
  else if addr.getLsbD 27 then .ok (.addrviolA27 op addr)
  else .ok (busRow op (addr.extractLsb' 0 24))

/-! ## Command and callback words (30 R112, R113) -/

/-- The command of a code. Argument bits a row names no field for are ignored (log 26). -/
def commandRow (code : Byte) (arg : Long) : Except DecodeError Instr :=
  match code.toNat with
  | 0x01 => .ok (.cmdStartup arg)
  | 0x02 => .ok (.cmdLoad arg)
  | 0x03 => .ok (.cmdGetSubsongInfo arg)
  | 0x04 => .ok (.cmdInitSubSong arg)
  | 0x05 => .ok (.cmdAudioRender arg)
  | 0x06 => .ok .cmdRunUntilReturn
  | 0x07 => .ok .cmdComputeNextSample
  | 0x10 => .ok (.cmdPsgWriteRegister (arg.extractLsb' 8 8) (arg.extractLsb' 0 8))
  | 0x11 => .ok .cmdPsgTick
  | 0x12 => .ok .cmdPsgComputeNextSample
  | 0x13 => .ok (.cmdPsgInsideTimerIrq (arg.getLsbD 0))
  | 0x14 => .ok .cmdPsgReset
  | 0x20 => .ok (.cmdTimerTick (Timer.ofBits (arg.extractLsb' 0 2)))
  | 0x21 => .ok .cmdTimerReset
  | 0x22 => .ok (.cmdTimerAcknowledge (Timer.ofBits (arg.extractLsb' 0 2)))
  | 0x23 => .ok (.cmdTimerEvent (Timer.ofBits (arg.extractLsb' 0 2)))
  | 0x30 => .ok .cmdDmaComputeNextSample
  | 0x31 => .ok .cmdDmaReset
  | _ => .error .unlistedCode

/-- The callback of a code. -/
def callbackRow (code : Byte) (arg : Long) : Except DecodeError Instr :=
  match code.toNat with
  | 0x01 => .ok (.cbReset (arg.extractLsb' 0 24))
  | 0x02 => .ok (.cbIllegal (arg.extractLsb' 0 16))
  | 0x03 => .ok (.cbGemdos (arg.extractLsb' 0 16))
  | _ => .error .unlistedCode

/-! ## The decoder -/

/-- Every 64-bit word decodes to one row or to a named `Reserved` condition (30 R114). -/
def decode (w : TxWord) : Except DecodeError Instr :=
  if clsField w = 0 then
    match busOpOf false (szField w) (dataField w) with
    | .ok op => decodeBus op (addrField w)
    | .error e => .error e
  else if clsField w = 1 then
    match busOpOf true (szField w) (dataField w) with
    | .ok op => decodeBus op (addrField w)
    | .error e => .error e
  else if reservedHigh w ≠ 0 ∨ reservedLow w ≠ 0 then .error .reservedField
  else if clsField w = 2 then commandRow (codeField w) (argField w)
  else callbackRow (codeField w) (argField w)

/-- The instruction the decoder reads from the low `nbits` bits of `w`, numbered as the opcode table
numbers them: one 64-bit transaction word, bit 0 its least significant. -/
def decodeTableWord (nbits w : Nat) : Option Instr :=
  match decode (BitVec.ofNat 64 (w % 2 ^ nbits)) with
  | .ok i => some i
  | .error _ => none

/-! ## The encoder -/

/-- The word of a bus transaction. -/
def encodeBus (op : BusOp) (addr : WideAddr) : TxWord :=
  match op with
  | .readByte => busWord 0 0 addr 0
  | .readWord => busWord 0 1 addr 0
  | .readLong => busWord 0 2 addr 0
  | .writeByte v => busWord 1 0 addr (v.setWidth 32)
  | .writeWord v => busWord 1 1 addr (v.setWidth 32)
  | .writeLong v => busWord 1 2 addr v

/-- The address field of an offset in a window. -/
def windowAddr (base off : Nat) : WideAddr := BitVec.ofNat 28 (base + off)

def psgAddr (off : BitVec 8) : WideAddr := windowAddr Config.psgBase off.toNat
def dmaAddr (off : BitVec 6) : WideAddr := windowAddr Config.dmaBase off.toNat
def mfpAddr (off : BitVec 6) : WideAddr := windowAddr Config.mfpBase off.toNat

/-- A byte write to a timer-unit register. -/
def encodeMfp (r : MfpReg) (b : Byte) : TxWord := encodeBus (.writeByte b) (mfpAddr r.offset)

/-- A byte write to a DMA register. -/
def encodeDma (r : DmaReg) (b : Byte) : TxWord := encodeBus (.writeByte b) (dmaAddr r.offset)

/-- The data field of a PSG word write: the byte on lane 15..8, zeros below. -/
def psgLane (b : Byte) : Half := b ++ (0 : Byte)

/-- The transaction word of an instruction. -/
def encode : Instr → TxWord
  | .addrviolA24 op addr => encodeBus op addr
  | .addrviolA25 op addr => encodeBus op addr
  | .addrviolA26 op addr => encodeBus op addr
  | .addrviolA27 op addr => encodeBus op addr
  | .busRdL addr => encodeBus .readLong (addr.setWidth 28)
  | .busWrL addr data => encodeBus (.writeLong data) (addr.setWidth 28)
  | .ramRdB addr => encodeBus .readByte (addr.setWidth 28)
  | .ramRdW addr => encodeBus .readWord (addr.setWidth 28)
  | .ramWrB addr data => encodeBus (.writeByte data) (addr.setWidth 28)
  | .ramWrW addr data => encodeBus (.writeWord data) (addr.setWidth 28)
  | .psgSelectB off b => encodeBus (.writeByte b) (psgAddr off)
  | .psgSelectW off b => encodeBus (.writeWord (psgLane b)) (psgAddr off)
  | .psgDataB off b => encodeBus (.writeByte b) (psgAddr off)
  | .psgDataW off b => encodeBus (.writeWord (psgLane b)) (psgAddr off)
  | .psgReadB off => encodeBus .readByte (psgAddr off)
  | .psgReadW off => encodeBus .readWord (psgAddr off)
  | .dmaWrCtrl b => encodeDma .ctrl b
  | .dmaWrStartH b => encodeDma .startH b
  | .dmaWrStartM b => encodeDma .startM b
  | .dmaWrStartL b => encodeDma .startL b
  | .dmaWrEndH b => encodeDma .endH b
  | .dmaWrEndM b => encodeDma .endM b
  | .dmaWrEndL b => encodeDma .endL b
  | .dmaWrMode b => encodeDma .mode b
  | .dmaWrMwdataB low b => encodeDma (if low then .mwDataL else .mwDataH) b
  | .dmaWrMwmaskB low b => encodeDma (if low then .mwMaskL else .mwMaskH) b
  | .dmaWrDropB off b => encodeBus (.writeByte b) (dmaAddr off)
  | .dmaWrMwdataW w => encodeBus (.writeWord w) (dmaAddr 0x22)
  | .dmaWrMwmaskW w => encodeBus (.writeWord w) (dmaAddr 0x24)
  | .dmaWrW off w => encodeBus (.writeWord w) (dmaAddr off)
  | .dmaRdB off => encodeBus .readByte (dmaAddr off)
  | .dmaRdW off => encodeBus .readWord (dmaAddr off)
  | .mfpWrGpip b => encodeMfp .gpip b
  | .mfpWrAer b => encodeMfp .aer b
  | .mfpWrDdr b => encodeMfp .ddr b
  | .mfpWrIera b => encodeMfp .iera b
  | .mfpWrIerb b => encodeMfp .ierb b
  | .mfpWrIpra b => encodeMfp .ipra b
  | .mfpWrIprb b => encodeMfp .iprb b
  | .mfpWrIsra b => encodeMfp .isra b
  | .mfpWrIsrb b => encodeMfp .isrb b
  | .mfpWrImra b => encodeMfp .imra b
  | .mfpWrImrb b => encodeMfp .imrb b
  | .mfpWrVr b => encodeMfp .vr b
  | .mfpWrTacr b => encodeMfp .tacr b
  | .mfpWrTbcr b => encodeMfp .tbcr b
  | .mfpWrTcdcr b => encodeMfp .tcdcr b
  | .mfpWrTadr b => encodeMfp .tadr b
  | .mfpWrTbdr b => encodeMfp .tbdr b
  | .mfpWrTcdr b => encodeMfp .tcdr b
  | .mfpWrTddr b => encodeMfp .tddr b
  | .mfpWrScr b => encodeMfp .scr b
  | .mfpWrUcr b => encodeMfp .ucr b
  | .mfpWrRsr b => encodeMfp .rsr b
  | .mfpWrTsr b => encodeMfp .tsr b
  | .mfpWrUdr b => encodeMfp .udr b
  | .mfpWrDropB off b => encodeBus (.writeByte b) (mfpAddr off)
  | .mfpWrW off w => encodeBus (.writeWord w) (mfpAddr off)
  | .mfpRdB off => encodeBus .readByte (mfpAddr off)
  | .mfpRdW off => encodeBus .readWord (mfpAddr off)
  | .unmappedRd .byte addr => encodeBus .readByte (addr.setWidth 28)
  | .unmappedRd .word addr => encodeBus .readWord (addr.setWidth 28)
  | .unmappedWr (.byte v) addr => encodeBus (.writeByte v) (addr.setWidth 28)
  | .unmappedWr (.word v) addr => encodeBus (.writeWord v) (addr.setWidth 28)
  | .cmdStartup hostRate => commandWord 2 0x01 hostRate
  | .cmdLoad secs => commandWord 2 0x02 secs
  | .cmdGetSubsongInfo id => commandWord 2 0x03 id
  | .cmdInitSubSong id => commandWord 2 0x04 id
  | .cmdAudioRender n => commandWord 2 0x05 n
  | .cmdRunUntilReturn => commandWord 2 0x06 0
  | .cmdComputeNextSample => commandWord 2 0x07 0
  | .cmdPsgWriteRegister index value => commandWord 2 0x10 ((0 : Half) ++ index ++ value)
  | .cmdPsgTick => commandWord 2 0x11 0
  | .cmdPsgComputeNextSample => commandWord 2 0x12 0
  | .cmdPsgInsideTimerIrq flag => commandWord 2 0x13 (if flag then 1 else 0)
  | .cmdPsgReset => commandWord 2 0x14 0
  | .cmdTimerTick t => commandWord 2 0x20 (t.toBits.setWidth 32)
  | .cmdTimerReset => commandWord 2 0x21 0
  | .cmdTimerAcknowledge t => commandWord 2 0x22 (t.toBits.setWidth 32)
  | .cmdTimerEvent t => commandWord 2 0x23 (t.toBits.setWidth 32)
  | .cmdDmaComputeNextSample => commandWord 2 0x30 0
  | .cmdDmaReset => commandWord 2 0x31 0
  | .cbReset pc => commandWord 3 0x01 (pc.setWidth 32)
  | .cbIllegal opcode => commandWord 3 0x02 (opcode.setWidth 32)
  | .cbGemdos fn => commandWord 3 0x03 (fn.setWidth 32)

end Sys2Proof
end

