-- ==== Sys2Proof/Machine/State.lean ====
section
/-! DEFINITION. The state of the block (10_state.md), the model's own fields beside it, the reasons a
step can stop, and the state after reset (70_reset_and_hazards R440 to R445). All plain data. -/

namespace Sys2Proof.Machine

open Sys2Proof

/-! ## Things there are three or four of -/

/-- One value for each voice. -/
structure PerVoice (α : Type) where
  a : α
  b : α
  c : α
deriving DecidableEq, Repr

/-- One value for each timer. -/
structure PerTimer (α : Type) where
  a : α
  b : α
  c : α
  d : α
deriving DecidableEq, Repr

/-- RAM: (address, byte) pairs, addresses strictly rising, no byte equal to what an unlisted address
reads as (20 R71, log 18). -/
abbrev Memory := List Host.Cell

/-! ## The units -/

/-- The PSG (10 R22 to R27). -/
structure Psg where
  regs        : Vector Byte 14
  sel         : Byte
  tonePeriod  : PerVoice (BitVec 12)
  noisePeriod : BitVec 5
  envPeriod   : BitVec 16
  toneCnt     : PerVoice (BitVec 16)
  edge        : PerVoice Bool
  noiseCnt    : BitVec 8
  lfsr        : BitVec 17
  noiseBit    : Bool
  envCnt      : BitVec 16
  envTab      : Fin 10
  envPos      : Int
  envAlt      : Bool
  half        : Bool
  inside      : Bool
  needReset   : PerVoice Bool
  psgAcc      : Nat
  level       : Half
  dcHist      : List Half
  dcSum       : Nat
  dcIdx       : Fin Config.dcLen
  voiceLvl    : PerVoice (BitVec 5)
deriving DecidableEq, Repr

/-- The timer unit (10 R30, R31). -/
structure Mfp where
  gpip  : Byte
  aer   : Byte
  ddr   : Byte
  iera  : Byte
  ierb  : Byte
  ipra  : Byte
  iprb  : Byte
  isra  : Byte
  isrb  : Byte
  imra  : Byte
  imrb  : Byte
  vr    : Byte
  tacr  : Byte
  tbcr  : Byte
  tcdcr : Byte
  tadr  : Byte
  tbdr  : Byte
  tcdr  : Byte
  tddr  : Byte
  scr   : Byte
  ucr   : Byte
  rsr   : Byte
  tsr   : Byte
  udr   : Byte
  cnt   : PerTimer Nat
  tacc  : PerTimer Nat
deriving DecidableEq, Repr

/-- The DMA sample unit (10 R40). -/
structure Dma where
  ctrl       : BitVec 2
  frameStart : BitVec 22
  frameEnd   : BitVec 22
  mode       : Byte
  curStart   : BitVec 22
  curEnd     : BitVec 22
  ptr        : BitVec 24
  dacc       : Nat
  mwData     : Half
  mwMask     : Half
deriving DecidableEq, Repr

/-- The exit conditions of 60 R400. -/
inductive ExitCode where
  | none
  | sentinel
  | illegal
  | unsupportedTrap
  | addressViolation
  | allocOverflow
deriving DecidableEq, Repr

/-- The sequencer's inputs and its own state (10 R46). -/
structure Seq where
  loaded                 : Bool
  subsongCount           : Nat
  duration               : List Nat
  tickRate               : Nat
  image                  : List Byte
  defaultDurationSeconds : Long
  curSubsong             : Nat
  tickAcc                : Nat
deriving DecidableEq, Repr

/-- The block's side of the CPU contract (45 R330, 10 R20): what `pulseReset` loaded, what
`getRegister(A7)` answers, and the value of the block's last `setRegister(D0)` since the last pulse.
Every other CPU register is the agent's and outside the spec (log 14). -/
structure CpuPort where
  a7 : Long
  pc : Long
  sr : Half
  d0 : Option Long
deriving DecidableEq, Repr

/-! ## The driver's place between two steps (log 7) -/

/-- The return path of a bounded execution (45 R340). -/
inductive Path where
  | rts
  | rte
deriving DecidableEq, Repr

/-- A render in progress (45 R374): samples asked for, samples written, debug stream requested. -/
structure Render where
  total : Nat
  done  : Nat
  debug : Bool
deriving DecidableEq, Repr

/-- Who called `RunUntilReturn`, with what its caller still has to do. -/
inductive Caller where
  /-- The host command (30 R112 code 0x06). -/
  | host
  /-- `InitSubSong(id)` (45 R372). -/
  | init (id : Nat)
  /-- A play call of a render (45 R374). -/
  | play (r : Render)
  /-- The dispatch of a timer after a sample (45 R360, R362): the timers still to tick, the sample,
  and the render it belongs to, if any. -/
  | irq (rest : List Timer) (sample : Int) (r : Option Render)
deriving DecidableEq, Repr

/-- The bounded execution in progress, meaningful while `busy` = 1: its caller and the slices left,
the one running among them (45 R342). -/
structure Run where
  caller     : Caller
  framesLeft : Nat
deriving DecidableEq, Repr

/-! ## Inputs and outputs -/

/-- The loader's outputs for `Load` (45 R370); `headerOk` is its verdict on the header. -/
structure SongModule where
  headerOk     : Bool
  subsongCount : Nat
  duration     : List Nat
  tickRate     : Nat
  image        : List Byte
deriving DecidableEq, Repr

/-- The operands passed out of band (30 R112; log 5). -/
structure OutOfBand where
  /-- `RunUntilReturn` (45 R340) -/
  entry    : Addr
  path     : Path
  frames   : Nat
  d0       : Option Long
  /-- `Load` (45 R370): the parsed module, absent when the loader produced none -/
  song     : Option SongModule
  hostRate : Nat
  /-- whether the host asks for the debug composite (42 R207) -/
  debug    : Bool
deriving DecidableEq, Repr

/-- What the two outside agents present to the block, in the order in which they act (20 R85; log 1). -/
inductive Input where
  /-- A transaction word (30 R100): a command of the host's, or a transaction presented to the block
  alone, as the vectors of 95_test_vectors present them (log 9). -/
  | word (w : TxWord)
  /-- A bus or trap callback of the CPU agent, as its transaction word (45 R330, R343). -/
  | agentWord (w : TxWord)
  /-- The host sets its out-of-band operands. -/
  | operands (o : OutOfBand)
  /-- The CPU agent's A7 takes a value: what `getRegister(A7)` answers from now on (45 R330 item 4). -/
  | agentA7 (v : Long)
  /-- The CPU agent returns from `runCycles` with the cycles it consumed (45 R330 item 3). -/
  | agentReturn (cycles : Nat)
deriving DecidableEq, Repr

/-- The value of the last bus read: exactly `8 * size` bits (30 R102). -/
inductive BusData where
  | none
  | byte (v : Byte)
  | word (v : Half)
  | long (v : Long)
deriving DecidableEq, Repr

/-- The command results of 60 R403; `pending` is the model's own, for a command whose bounded
execution is in progress. -/
inductive Result where
  | ok
  | failInvalid
  | failTimeout
  | failFatal (code : ExitCode) (info : Long)
  | refused
  | pending
deriving DecidableEq, Repr

/-- What `GetSubsongInfo` reports (45 R371). -/
structure SubsongInfo where
  subsongCount           : Nat
  tickCount              : Nat
  tickRate               : Nat
  samplesPerTick         : Nat
  defaultDurationSeconds : Long
deriving DecidableEq, Repr

/-- The value a command returns beside its result. -/
inductive Value where
  | none
  /-- `PSG.Tick` -/
  | level (v : Half)
  /-- the three `ComputeNextSample` commands -/
  | sample (v : Int)
  /-- `Timer.Tick` -/
  | fired (b : Bool)
  /-- `GetSubsongInfo` -/
  | info (i : SubsongInfo)
  /-- `AudioRender`: samples written -/
  | written (n : Nat)
deriving DecidableEq, Repr

/-- What the block has answered (log 6): the last bus read, the last command's result and value, the
caller's render buffer, the debug stream (42 R207). -/
structure Outputs where
  bus    : BusData
  result : Result
  value  : Value
  buf    : List Int
  dbg    : List Long
deriving DecidableEq, Repr

/-! ## The state -/

/-- The state of the block, and the model's own fields (the last four). -/
structure State where
  params       : Config.Params
  started      : Bool
  hostRate     : Nat
  psg          : Psg
  mfp          : Mfp
  dma          : Dma
  mem          : Memory
  exit         : ExitCode
  exitInfo     : Long
  bump         : BitVec 24
  busy         : Bool
  irqFailed    : Bool
  sessionFault : Bool
  faultCode    : ExitCode
  faultInfo    : Long
  seq          : Seq
  cpu          : CpuPort
  run          : Run
  oob          : OutOfBand
  inputs       : List Input
  out          : Outputs
deriving DecidableEq, Repr

/-! ## Why a step stops -/

/-- The faults. -/
inductive Fault where
  /-- Raised by the step on `agentReturn` when the CPU agent returned from `runCycles` before it had
  consumed a slice's cycles and without an exit condition (45 R330 item 3). Safe: the spec requires
  of the agent that this does not happen (log 8). -/
  | agentContract
deriving DecidableEq, Repr

/-- The refusals: the model has no step. -/
inductive Refusal where
  /-- Raised by `exec` for an instruction without a meaning yet. Safe. -/
  | notModelled (mnemonic : String)
  /-- Raised by the step on a transaction word that decodes to `Reserved` (30 R114). Safe. -/
  | reservedWord
  /-- Raised by the three trap callbacks, and by the step on every word of the CPU agent's, bus or trap,
  when no bounded execution is in progress (45 R343). Safe. -/
  | callbackOutsideRun
  /-- Raised by the step on `agentReturn` when no bounded execution is in progress (45 R343). Safe. -/
  | agentOutsideRun
  /-- Raised by the GEMDOS callback when the allocation size would be read at an odd address (20 R80;
  log 15). Safe. -/
  | oddStack
deriving DecidableEq, Repr

/-! ## Reset -/

/-- The same value for each voice. -/
def PerVoice.fill {α : Type} (x : α) : PerVoice α := ⟨x, x, x⟩

/-- The same value for each timer. -/
def PerTimer.fill {α : Type} (x : α) : PerTimer α := ⟨x, x, x, x⟩

/-- The PSG after reset with `TONE_EDGE_INIT` = 0 (70 R441). -/
def Psg.atReset : Psg where
  regs        := Vector.replicate 14 0
  sel         := 0
  tonePeriod  := .fill 0
  noisePeriod := 0
  envPeriod   := 0
  toneCnt     := .fill 0
  edge        := .fill false
  noiseCnt    := 0
  lfsr        := 1
  noiseBit    := true
  envCnt      := 0
  envTab      := 0
  envPos      := 0
  envAlt      := false
  half        := false
  inside      := false
  needReset   := .fill false
  psgAcc      := 0
  level       := 0
  dcHist      := List.replicate Config.dcLen 0
  dcSum       := 0
  dcIdx       := 0
  voiceLvl    := .fill 0

/-- The timer unit after reset (70 R442). -/
def Mfp.atReset : Mfp where
  gpip := 0
  aer := 0
  ddr := 0
  iera := 0
  ierb := 0
  ipra := 0
  iprb := 0
  isra := 0
  isrb := 0
  imra := 0
  imrb := 0
  vr := 0
  tacr := 0
  tbcr := 0
  tcdcr := 0
  tadr := 0
  tbdr := 0
  tcdr := 0
  tddr := 0
  scr := 0
  ucr := 0
  rsr := 0
  tsr := 0
  udr := 0
  cnt := .fill 256
  tacc := .fill 0

/-- The DMA unit after reset (70 R443). -/
def Dma.atReset : Dma where
  ctrl := 0
  frameStart := 0
  frameEnd := 0
  mode := 0
  curStart := 0
  curEnd := 0
  ptr := 0
  dacc := 0
  mwData := 0
  mwMask := 0

/-- RAM after reset: zero but for the two sentinels (45 R332) and the cookie list (45 R333). -/
def Memory.atReset : Memory :=
  [(0x500, 0x4E), (0x501, 0x70), (0x502, 0x4E), (0x503, 0x70),
   (0x5A2, 0x06),
   (0x600, 0x5F), (0x601, 0x4D), (0x602, 0x43), (0x603, 0x48), (0x605, 0x01),
   (0x608, 0x5F), (0x609, 0x53), (0x60A, 0x4E), (0x60B, 0x44), (0x60F, 0x03),
   (0x617, 0x04)]

/-- The sequencer before any Load (10 R46; log 20). -/
def Seq.atReset : Seq where
  loaded := false
  subsongCount := 0
  duration := []
  tickRate := 0
  image := []
  defaultDurationSeconds := 0
  curSubsong := 0
  tickAcc := 0

/-- No run in progress. -/
def Run.idle : Run := ⟨.host, 0⟩

/-- The out-of-band operands before the host sets any (log 5). -/
def OutOfBand.atReset : OutOfBand where
  entry := 0
  path := .rts
  frames := 1
  d0 := none
  song := none
  hostRate := 44100
  debug := false

/-- Nothing answered yet but Startup's OK (log 6). -/
def Outputs.atReset : Outputs where
  bus := .none
  result := .ok
  value := .none
  buf := []
  dbg := []

/-- The state after reset, which is Startup (70 R440, R445), at `HOST_RATE` = 44100 (log 2). -/
def State.reset : State where
  params       := .default
  started      := true
  hostRate     := 44100
  psg          := .atReset
  mfp          := .atReset
  dma          := .atReset
  mem          := .atReset
  exit         := .none
  exitInfo     := 0
  bump         := BitVec.ofNat 24 Config.bumpBase
  busy         := false
  irqFailed    := false
  sessionFault := false
  faultCode    := .none
  faultInfo    := 0
  seq          := .atReset
  cpu          := ⟨0, 0, 0x2700, none⟩
  run          := .idle
  oob          := .atReset
  inputs       := []
  out          := .atReset

end Sys2Proof.Machine
end

