-- ==== Sys2Proof/Machine/Operands.lean ====
section
/-! DEFINITION. Operand forms: access to the per-voice and per-timer state, the PSG register index,
the assembly of periods, frame addresses and reload values (30_encoding R107 to R111), the timer mode
decode (43_timer R240), the envelope tables (40 R140, R141), and the plain loops of the spec. -/

namespace Sys2Proof.Machine

open Sys2Proof

/-! ## Voices and timers -/

def PerVoice.get {α : Type} (p : PerVoice α) : Voice → α
  | .a => p.a
  | .b => p.b
  | .c => p.c

def PerVoice.set {α : Type} (p : PerVoice α) (v : Voice) (x : α) : PerVoice α :=
  match v with
  | .a => { p with a := x }
  | .b => { p with b := x }
  | .c => { p with c := x }

/-- One value for each voice, computed from the voice. -/
def PerVoice.of {α : Type} (f : Voice → α) : PerVoice α := ⟨f .a, f .b, f .c⟩

def PerTimer.get {α : Type} (p : PerTimer α) : Timer → α
  | .a => p.a
  | .b => p.b
  | .c => p.c
  | .d => p.d

def PerTimer.set {α : Type} (p : PerTimer α) (t : Timer) (x : α) : PerTimer α :=
  match t with
  | .a => { p with a := x }
  | .b => { p with b := x }
  | .c => { p with c := x }
  | .d => { p with d := x }

/-- The voices in their order. -/
def allVoices : List Voice := [.a, .b, .c]

/-- The timers in dispatch order (45 R360). -/
def allTimers : List Timer := [.a, .b, .c, .d]

/-- `f` applied `n` times: the body of a spec loop whose count is known. -/
def times {α : Type} (f : α → α) : Nat → α → α
  | 0, x => x
  | n + 1, x => times f n (f x)

/-- `max(period, 1)` (41 R163). -/
def atLeastOne (period : Nat) : Nat := max period 1

/-! ## PSG registers (10 R22, 30 R107) -/

/-- `MASK` (40 R134). -/
def psgMask (i : Fin 14) : Byte :=
  match i with
  | 1 | 3 | 5 | 13 => 0x0F
  | 6 | 8 | 9 | 10 => 0x1F
  | 0 | 2 | 4 | 7 | 11 | 12 => 0xFF

/-- The register an index names; 14 and above name none (40 R131, R134). -/
def psgIndex (b : Byte) : Option (Fin 14) :=
  if h : b.toNat < 14 then some ⟨b.toNat, h⟩ else none

/-- The fine tone-period register of a voice. -/
def fineReg : Voice → Fin 14
  | .a => 0
  | .b => 2
  | .c => 4

/-- The coarse tone-period register of a voice. -/
def coarseReg : Voice → Fin 14
  | .a => 1
  | .b => 3
  | .c => 5

/-- The volume register of a voice. -/
def volumeReg : Voice → Fin 14
  | .a => 8
  | .b => 9
  | .c => 10

/-- `v = index div 2` for a tone register (40 R135). -/
def toneVoice (i : Fin 14) : Option Voice :=
  match i with
  | 0 | 1 => some .a
  | 2 | 3 => some .b
  | 4 | 5 => some .c
  | 6 | 7 | 8 | 9 | 10 | 11 | 12 | 13 => none

/-- `regs[2v+1][3:0] : regs[2v][7:0]` (40 R135). -/
def tonePeriodOf (regs : Vector Byte 14) (v : Voice) : BitVec 12 :=
  (regs[coarseReg v]).extractLsb' 0 4 ++ regs[fineReg v]

/-- `regs[6][4:0]` (40 R135). -/
def noisePeriodOf (regs : Vector Byte 14) : BitVec 5 := (regs[(6 : Fin 14)]).extractLsb' 0 5

/-- `regs[12] : regs[11]` (40 R135). -/
def envPeriodOf (regs : Vector Byte 14) : BitVec 16 := regs[(12 : Fin 14)] ++ regs[(11 : Fin 14)]

/-- `toneOff[v] = regs[7][v]` (41 R168). -/
def toneOff (regs : Vector Byte 14) : Voice → Bool
  | .a => (regs[(7 : Fin 14)]).getLsbD 0
  | .b => (regs[(7 : Fin 14)]).getLsbD 1
  | .c => (regs[(7 : Fin 14)]).getLsbD 2

/-- `noiseOff[v] = regs[7][v+3]` (41 R168). -/
def noiseOff (regs : Vector Byte 14) : Voice → Bool
  | .a => (regs[(7 : Fin 14)]).getLsbD 3
  | .b => (regs[(7 : Fin 14)]).getLsbD 4
  | .c => (regs[(7 : Fin 14)]).getLsbD 5

/-! ## Envelope tables -/

/-- `ENV_SEL(s)` (40 R140). -/
def envSel (s : BitVec 4) : Fin 10 :=
  if s.toNat < 4 then 0
  else if s.toNat < 8 then 1
  else ⟨(s.toNat - 6) % 10, Nat.mod_lt _ (by decide)⟩

/-- The representative shape of a table (40 R141). -/
def envShape (e : Fin 10) : BitVec 4 :=
  match e with
  | 0 => 0
  | 1 => 4
  | 2 => 8
  | 3 => 9
  | 4 => 10
  | 5 => 11
  | 6 => 12
  | 7 => 13
  | 8 => 14
  | 9 => 15

/-- `ENV[e][k]`, k = 0..63: the first pass, then the loop (40 R141). -/
def envTable (e : Fin 10) (k : Nat) : BitVec 5 :=
  let s := envShape e
  let cont := s.getLsbD 3
  let att := s.getLsbD 2
  let alt := s.getLsbD 1
  let hold := s.getLsbD 0
  let up : BitVec 5 := BitVec.ofNat 5 k
  if k < 32 then (if att then up else 31 - up)
  else
    let j : BitVec 5 := BitVec.ofNat 5 (k - 32)
    if !cont then 0
    else if hold then (if att != alt then 31 else 0)
    else if !alt then (if att then j else 31 - j)
    else (if att then 31 - j else j)

/-! ## Timer unit -/

/-- A reload value: 0 stands for 256 (30 R111). -/
def reload (b : Byte) : Nat := if b = 0 then 256 else b.toNat

/-- `data[t]` (10 R30). -/
def Mfp.data (m : Mfp) : Timer → Byte
  | .a => m.tadr
  | .b => m.tbdr
  | .c => m.tcdr
  | .d => m.tddr

/-- `mode(t)` (43 R240). -/
def Mfp.timerMode (m : Mfp) : Timer → Nat
  | .a => (m.tacr.extractLsb' 0 4).toNat
  | .b => (m.tbcr.extractLsb' 0 4).toNat
  | .c => (m.tcdcr.extractLsb' 4 3).toNat
  | .d => (m.tcdcr.extractLsb' 0 3).toNat

/-- `prescale(t)`; 0 when the timer is not in delay mode (43 R240). -/
def Mfp.prescale (m : Mfp) (t : Timer) : Nat := Config.prescaleOf (m.timerMode t)

/-- `running(t)` (43 R240, 90 C8). -/
def Mfp.running (m : Mfp) (t : Timer) : Bool := m.timerMode t != 0

/-- `ch(t)` (10 R32). -/
def channel : Timer → Nat
  | .a => 13
  | .b => 8
  | .c => 5
  | .d => 4

/-- `VEC(t) = 4 * (0x40 + ch(t))`, whatever `VR[7:4]` holds (43 R264). -/
def vectorAddr (t : Timer) : Nat := 4 * (0x40 + channel t)

/-! ## DMA frame addresses (30 R110, R111) -/

/-- Bits [21:16] from a byte's bits [5:0]. -/
def withHigh (f : BitVec 22) (b : Byte) : BitVec 22 := b.extractLsb' 0 6 ++ f.extractLsb' 0 16

/-- Bits [15:8] from a byte. -/
def withMid (f : BitVec 22) (b : Byte) : BitVec 22 := f.extractLsb' 16 6 ++ b ++ f.extractLsb' 0 8

/-- Bits [7:1] from a byte's bits [7:1]; bit 0 is forced to 0. -/
def withLow (f : BitVec 22) (b : Byte) : BitVec 22 :=
  f.extractLsb' 8 14 ++ b.extractLsb' 1 7 ++ (0 : BitVec 1)

/-- The three bytes an address reads back as (44 R303). -/
def highByte (f : BitVec 22) : Byte := (f.extractLsb' 16 6).setWidth 8
def midByte (f : BitVec 22) : Byte := f.extractLsb' 8 8
def lowByte (f : BitVec 22) : Byte := f.extractLsb' 0 8

/-- Bits [15:8] or [7:0] of a microwire register replaced (44 R300). -/
def withUpper (w : Half) (b : Byte) : Half := b ++ w.extractLsb' 0 8
def withLower (w : Half) (b : Byte) : Half := w.extractLsb' 8 8 ++ b

/-! ## Bytes of wider values (20 R71: the most significant byte at the lowest address) -/

def hiByte (w : Half) : Byte := w.extractLsb' 8 8
def loByte (w : Half) : Byte := w.extractLsb' 0 8
def hiHalf (l : Long) : Half := l.extractLsb' 16 16
def loHalf (l : Long) : Half := l.extractLsb' 0 16

/-- `clamp(v, lo, hi) = min(hi, max(lo, v))` (00 R7). -/
def clamp (v lo hi : Int) : Int := min hi (max lo v)

end Sys2Proof.Machine
end

