-- ==== Sys2Proof/Machine/Flags.lean ====
section
/-! DEFINITION. Flag computations: the exit condition (60_exceptions R400), the interrupt enable,
pending, in-service and mask bits of the timer unit (43_timer R243, R244, R250 to R263), and the PSG's
voice enable (41 R168). -/

namespace Sys2Proof.Machine

open Sys2Proof

/-! ## The exit condition -/

/-- The numeric code of an exit condition (60 R400). -/
def ExitCode.code : ExitCode → Nat
  | .none => 0
  | .sentinel => 1
  | .illegal => 2
  | .unsupportedTrap => 3
  | .addressViolation => 4
  | .allocOverflow => 5

/-- The class "fatal" of 60 R400. -/
def ExitCode.fatal : ExitCode → Bool
  | .none => false
  | .sentinel => false
  | .illegal => true
  | .unsupportedTrap => true
  | .addressViolation => true
  | .allocOverflow => true

/-! ## Interrupt bits of the timer unit -/

/-- The 16-bit views: bit c is channel c (10 R30). -/
def Mfp.ier (m : Mfp) : Half := m.iera ++ m.ierb
def Mfp.ipr (m : Mfp) : Half := m.ipra ++ m.iprb
def Mfp.isr (m : Mfp) : Half := m.isra ++ m.isrb
def Mfp.imr (m : Mfp) : Half := m.imra ++ m.imrb

/-- A view with one channel's bit set. -/
def setChannel (v : Half) (c : Nat) : Half := v ||| ((1 : Half) <<< c)

/-- A view with one channel's bit cleared. -/
def clearChannel (v : Half) (c : Nat) : Half := v &&& ~~~((1 : Half) <<< c)

/-- The pending registers from their view. -/
def Mfp.withIpr (m : Mfp) (v : Half) : Mfp := { m with ipra := hiByte v, iprb := loByte v }

/-- The in-service registers from their view. -/
def Mfp.withIsr (m : Mfp) (v : Half) : Mfp := { m with isra := hiByte v, isrb := loByte v }

/-- `Timeout(t)`: a disabled channel records nothing (43 R244). -/
def Mfp.timeout (m : Mfp) (t : Timer) : Mfp :=
  if m.ier.getLsbD (channel t) then m.withIpr (setChannel m.ipr (channel t)) else m

/-- `Decrement(t)` (43 R243). -/
def Mfp.decrement (m : Mfp) (t : Timer) : Mfp :=
  if m.cnt.get t = 1 then
    Mfp.timeout { m with cnt := m.cnt.set t (reload (m.data t)) } t
  else { m with cnt := m.cnt.set t (m.cnt.get t - 1) }

/-- `Timer.Event(t)`: only timer A in event-count mode counts it (43 R261, R245). -/
def Mfp.event (m : Mfp) (t : Timer) : Mfp :=
  if t = .a ∧ m.timerMode .a = 8 then m.decrement .a else m

/-- `Gate(t)` (43 R262). -/
def Mfp.gate (isrGating : Bool) (m : Mfp) (t : Timer) : Bool :=
  !isrGating || m.isr >>> channel t == 0

/-- `Signal(t) = IPR & IMR & Gate` at the timer's channel (43 R262). -/
def Mfp.signal (isrGating : Bool) (m : Mfp) (t : Timer) : Bool :=
  m.ipr.getLsbD (channel t) && m.imr.getLsbD (channel t) && m.gate isrGating t

/-- `Timer.Acknowledge(t)` (43 R263). -/
def Mfp.acknowledge (m : Mfp) (t : Timer) : Mfp :=
  let m1 := m.withIpr (clearChannel m.ipr (channel t))
  if m.vr.getLsbD 3 then m1.withIsr (setChannel m1.isr (channel t)) else m1

/-! ## The PSG's voice enable -/

/-- `en[v] = (edge | toneOff) & (noiseBit | noiseOff)` (41 R168). -/
def Psg.enabled (p : Psg) (v : Voice) : Bool :=
  (p.edge.get v || toneOff p.regs v) && (p.noiseBit || noiseOff p.regs v)

end Sys2Proof.Machine
end

