-- ==== Sys2Proof/Machine/Ops.lean ====
section
/-! DEFINITION. The named operations over memory and registers: RAM (20_memory R71 to R78), the PSG
register file and ports (40_psg_registers), the timer-unit and DMA register files (43_timer R241 to
R254, 44_dma R300 to R305), the bus primitives, and taking an exception: raising an exit condition
(60_exceptions R400), entering a bounded execution (45 R340), dispatching a timer interrupt (45 R362),
and the return from one. -/

namespace Sys2Proof.Machine

open Sys2Proof

/-! ## RAM -/

/-- What an address that memory does not list reads as: Startup zeroes RAM (10 R45, log 18). -/
def Memory.unlisted : Byte := 0

def Memory.read : Memory → Nat → Byte
  | [], _ => Memory.unlisted
  | (b, v) :: m, a => if b = a then v else Memory.read m a

/-- Writing the byte an unlisted address reads as takes the entry out, so equal memories are equal lists. -/
def Memory.write : Memory → Nat → Byte → Memory
  | [], a, v => if v = Memory.unlisted then [] else [(a, v)]
  | (b, w) :: m, a, v =>
    if a < b then (if v = Memory.unlisted then (b, w) :: m else (a, v) :: (b, w) :: m)
    else if a = b then (if v = Memory.unlisted then m else (a, v) :: m)
    else (b, w) :: Memory.write m a v

/-- The canonical form from an address on. -/
def Memory.wfFrom : Nat → Memory → Bool
  | _, [] => true
  | lo, (a, v) :: m =>
    decide (lo ≤ a) && decide (a < Config.ramSize) && v != Memory.unlisted && Memory.wfFrom (a + 1) m

/-- The canonical form: addresses strictly rising and in RAM, no entry that reads as an unlisted one. -/
def Memory.wf (m : Memory) : Bool := Memory.wfFrom 0 m

/-- `RAM[a] : RAM[a+1]` (20 R71). -/
def Memory.read16 (m : Memory) (a : Nat) : Half := m.read a ++ m.read (a + 1)

/-- The four bytes at a, the most significant first (20 R71). -/
def Memory.read32 (m : Memory) (a : Nat) : Long := m.read16 a ++ m.read16 (a + 2)

def Memory.write16 (m : Memory) (a : Nat) (v : Half) : Memory :=
  (m.write a (hiByte v)).write (a + 1) (loByte v)

def Memory.write32 (m : Memory) (a : Nat) (v : Long) : Memory :=
  (m.write16 a (hiHalf v)).write16 (a + 2) (loHalf v)

/-- Consecutive bytes from an address on: the upload of an image (45 R372). -/
def Memory.writeBytes (m : Memory) (a : Nat) : List Byte → Memory
  | [] => m
  | v :: vs => Memory.writeBytes (m.write a v) (a + 1) vs

/-! ## Updates of the state, one part at a time -/

def State.withMem (s : State) (m : Memory) : State := { s with mem := m }
def State.withPsg (s : State) (p : Psg) : State := { s with psg := p }
def State.withMfp (s : State) (m : Mfp) : State := { s with mfp := m }
def State.withDma (s : State) (d : Dma) : State := { s with dma := d }
def State.withCpu (s : State) (c : CpuPort) : State := { s with cpu := c }

/-- The answer to a bus read. -/
def State.withBus (s : State) (b : BusData) : State := { s with out := { s.out with bus := b } }

/-- The answer to a command. -/
def State.answer (s : State) (r : Result) (v : Value) : State :=
  { s with out := { s.out with result := r, value := v } }

/-! ## PSG registers -/

/-- The register write, the masks of 40 R134 applied. -/
def Psg.setReg (p : Psg) (i : Fin 14) (v : Byte) : Psg :=
  { p with regs := p.regs.set i (v &&& psgMask i) }

/-- The tone part of a register write: the period (40 R135), then the deferred edge reset (40 R136). -/
def Psg.updateTone (p : Psg) (v : Voice) : Psg :=
  let period := tonePeriodOf p.regs v
  let p1 := { p with tonePeriod := p.tonePeriod.set v period }
  if p.inside ∧ period.toNat ≤ 1 then { p1 with needReset := p1.needReset.set v true } else p1

/-- The noise period (40 R135). -/
def Psg.updateNoise (p : Psg) : Psg := { p with noisePeriod := noisePeriodOf p.regs }

/-- The envelope period (40 R135). -/
def Psg.updateEnvPeriod (p : Psg) : Psg := { p with envPeriod := envPeriodOf p.regs }

/-- The envelope shape select: every write re-primes (40 R137). -/
def Psg.selectShape (p : Psg) : Psg :=
  { p with
    envTab := envSel ((p.regs[(13 : Fin 14)]).extractLsb' 0 4)
    envPos := -32
    envAlt := false }

/-- `PSG.WriteRegister(index, value)` for an index below 14 (40 R134). -/
def Psg.writeReg (p : Psg) (i : Fin 14) (v : Byte) : Psg :=
  let p1 := p.setReg i v
  match toneVoice i with
  | some voice => p1.updateTone voice
  | none =>
    if i = 6 then p1.updateNoise
    else if i = 11 ∨ i = 12 then p1.updateEnvPeriod
    else if i = 13 then p1.selectShape
    else p1

/-- `PSG.WriteRegister(index, value)`: an index of 14 or more is a no-op (40 R134). -/
def Psg.writeRegister (p : Psg) (index value : Byte) : Psg :=
  match psgIndex index with
  | some i => p.writeReg i value
  | none => p

/-- `PSG.SELECT`: stored unmasked (40 R130). -/
def Psg.select (p : Psg) (b : Byte) : Psg := { p with sel := b }

/-- `PSG.DATA` (40 R132). -/
def Psg.writeData (p : Psg) (b : Byte) : Psg := p.writeRegister p.sel b

/-- `PSG.Read8`: the selected register on the even lane of the select port, all ones elsewhere (40 R133). -/
def Psg.read8 (p : Psg) (off : BitVec 8) : Byte :=
  if !off.getLsbD 1 && !off.getLsbD 0 then
    match psgIndex p.sel with
    | some i => p.regs[i]
    | none => 0xFF
  else 0xFF

/-- `PSG.Read16` (40 R133). -/
def Psg.read16 (p : Psg) (off : BitVec 8) : Half := p.read8 off ++ (0xFF : Byte)

/-- `PSG.Write8`: offset bit 1 selects the port (30 R104). -/
def Psg.write8 (p : Psg) (off : BitVec 8) (b : Byte) : Psg :=
  if off.getLsbD 1 then p.writeData b else p.select b

/-- The deferred edge reset of one voice (42 R210). -/
def Psg.applyReset (p : Psg) (v : Voice) : Psg :=
  if p.needReset.get v then
    { p with
      toneCnt := p.toneCnt.set v 0
      edge := p.edge.set v (!p.edge.get v)
      needReset := p.needReset.set v false }
  else p

/-- `PSG.InsideTimerIrq(flag)` (42 R210). -/
def Psg.insideTimerIrq (p : Psg) (flag : Bool) : Psg :=
  let p1 := if p.inside && !flag then ((p.applyReset .a).applyReset .b).applyReset .c else p
  { p1 with inside := flag }

/-- `PSG.Reset()` (70 R441). -/
def Psg.resetOf (q : Config.Params) : Psg :=
  { Psg.atReset with
    edge := ⟨q.toneEdgeInit.getLsbD 0, q.toneEdgeInit.getLsbD 1, q.toneEdgeInit.getLsbD 2⟩ }

/-! ## Timer-unit registers -/

/-- A control register's new mode restarts the prescale phase of a timer whose mode changed (43 R241). -/
def Mfp.restartIfChanged (old m : Mfp) (t : Timer) : Mfp :=
  if m.timerMode t = old.timerMode t then m else { m with tacc := m.tacc.set t 0 }

/-- The data register is stored; a stopped timer's counter is loaded too (43 R246). -/
def Mfp.loadIfStopped (m : Mfp) (t : Timer) : Mfp :=
  if m.timerMode t = 0 then { m with cnt := m.cnt.set t (reload (m.data t)) } else m

/-- A write to a register of the timer unit (43 R241, R246, R249 to R254). -/
def Mfp.write (m : Mfp) (r : MfpReg) (b : Byte) : Mfp :=
  match r with
  | .gpip => { m with gpip := b }
  | .aer => { m with aer := b }
  | .ddr => { m with ddr := b }
  | .iera => { m with iera := b, ipra := m.ipra &&& b }
  | .ierb => { m with ierb := b, iprb := m.iprb &&& b }
  | .ipra => { m with ipra := m.ipra &&& b }
  | .iprb => { m with iprb := m.iprb &&& b }
  | .isra => { m with isra := m.isra &&& b }
  | .isrb => { m with isrb := m.isrb &&& b }
  | .imra => { m with imra := b }
  | .imrb => { m with imrb := b }
  | .vr =>
    let m1 := { m with vr := b &&& 0xF8 }
    if m1.vr.getLsbD 3 then m1 else { m1 with isra := 0, isrb := 0 }
  | .tacr => Mfp.restartIfChanged m { m with tacr := b &&& 0x0F } .a
  | .tbcr => Mfp.restartIfChanged m { m with tbcr := b &&& 0x0F } .b
  | .tcdcr => Mfp.restartIfChanged m (Mfp.restartIfChanged m { m with tcdcr := b &&& 0x77 } .c) .d
  | .tadr => Mfp.loadIfStopped { m with tadr := b } .a
  | .tbdr => Mfp.loadIfStopped { m with tbdr := b } .b
  | .tcdr => Mfp.loadIfStopped { m with tcdr := b } .c
  | .tddr => Mfp.loadIfStopped { m with tddr := b } .d
  | .scr => { m with scr := b }
  | .ucr => { m with ucr := b }
  | .rsr => { m with rsr := b }
  | .tsr => { m with tsr := b }
  | .udr => { m with udr := b }

/-- `cnt[t] mod 256` (43 R247). -/
def Mfp.counterByte (m : Mfp) (t : Timer) : Byte := BitVec.ofNat 8 (m.cnt.get t)

/-- What a register reads as; `gpipIn` is the level of the input pins (43 R247). -/
def Mfp.read (gpipIn : Byte) (m : Mfp) (r : MfpReg) : Byte :=
  match r with
  | .gpip => (m.gpip &&& m.ddr) ||| (gpipIn &&& ~~~m.ddr)
  | .aer => m.aer
  | .ddr => m.ddr
  | .iera => m.iera
  | .ierb => m.ierb
  | .ipra => m.ipra
  | .iprb => m.iprb
  | .isra => m.isra
  | .isrb => m.isrb
  | .imra => m.imra
  | .imrb => m.imrb
  | .vr => m.vr
  | .tacr => m.tacr
  | .tbcr => m.tbcr
  | .tcdcr => m.tcdcr
  | .tadr => m.counterByte .a
  | .tbdr => m.counterByte .b
  | .tcdr => m.counterByte .c
  | .tddr => m.counterByte .d
  | .scr => m.scr
  | .ucr => m.ucr
  | .rsr => m.rsr
  | .tsr => m.tsr
  | .udr => m.udr

/-- A byte read in the timer window (30 R105, 43 R247). -/
def Mfp.read8 (gpipIn : Byte) (m : Mfp) (off : BitVec 6) : Byte :=
  match MfpReg.ofOffset off with
  | some r => Mfp.read gpipIn m r
  | none => 0xFF

/-- A word read at even offset o is `0xFF : Read8(o + 1)` (43 R247). -/
def Mfp.read16 (gpipIn : Byte) (m : Mfp) (off : BitVec 6) : Half :=
  (0xFF : Byte) ++ Mfp.read8 gpipIn m (off + 1)

/-- A byte write in the timer window; an offset without a register drops it (30 R105). -/
def Mfp.write8 (m : Mfp) (off : BitVec 6) (b : Byte) : Mfp :=
  match MfpReg.ofOffset off with
  | some r => m.write r b
  | none => m

/-- A word write reaches the register at o + 1 with `data[7:0]` (30 R105). -/
def Mfp.write16 (m : Mfp) (off : BitVec 6) (w : Half) : Mfp := m.write8 (off + 1) (loByte w)

/-! ## DMA registers -/

/-- The bounds latched from the frame registers (44 R291). -/
def Dma.latch (d : Dma) : Dma :=
  { d with curStart := d.frameStart, curEnd := d.frameEnd, ptr := d.frameStart.setWidth 24 }

/-- The control register: bit 0 from 0 to 1 starts a frame (44 R302). -/
def Dma.writeCtrl (d : Dma) (b : Byte) : Dma :=
  let d1 := { d with ctrl := b.extractLsb' 0 2 }
  if !d.ctrl.getLsbD 0 && b.getLsbD 0 then { d1.latch with dacc := 0 } else d1

/-- A write to a byte register of the DMA window (44 R300 to R304). -/
def Dma.write (d : Dma) (r : DmaReg) (b : Byte) : Dma :=
  match r with
  | .ctrl => d.writeCtrl b
  | .startH => { d with frameStart := withHigh d.frameStart b }
  | .startM => { d with frameStart := withMid d.frameStart b }
  | .startL => { d with frameStart := withLow d.frameStart b }
  | .endH => { d with frameEnd := withHigh d.frameEnd b }
  | .endM => { d with frameEnd := withMid d.frameEnd b }
  | .endL => { d with frameEnd := withLow d.frameEnd b }
  | .mode => { d with mode := b &&& 0x83 }
  | .mwDataH => { d with mwData := withUpper d.mwData b }
  | .mwDataL => { d with mwData := withLower d.mwData b }
  | .mwMaskH => { d with mwMask := withUpper d.mwMask b }
  | .mwMaskL => { d with mwMask := withLower d.mwMask b }

/-- A byte write in the DMA window (44 R305: the counter and the unassigned offsets drop it). -/
def Dma.write8 (d : Dma) (off : BitVec 6) (b : Byte) : Dma :=
  match DmaReg.ofOffset off with
  | some r => d.write r b
  | none => d

/-- A word write in the DMA window: the microwire registers whole, else the byte register at o + 1
with `data[7:0]` (44 R300, R305). -/
def Dma.write16 (d : Dma) (off : BitVec 6) (w : Half) : Dma :=
  if off = 0x22 then { d with mwData := w }
  else if off = 0x24 then { d with mwMask := w }
  else d.write8 (off + 1) (loByte w)

/-- A byte read in the DMA window (44 R303). -/
def Dma.read8 (d : Dma) (off : BitVec 6) : Byte :=
  match off.toNat with
  | 0x01 => d.ctrl.setWidth 8
  | 0x03 => highByte d.frameStart
  | 0x05 => midByte d.frameStart
  | 0x07 => lowByte d.frameStart
  | 0x09 => highByte (d.ptr.setWidth 22)
  | 0x0B => midByte (d.ptr.setWidth 22)
  | 0x0D => lowByte (d.ptr.setWidth 22)
  | 0x0F => highByte d.frameEnd
  | 0x11 => midByte d.frameEnd
  | 0x13 => lowByte d.frameEnd
  | 0x21 => d.mode
  | 0x22 => hiByte d.mwData
  | 0x23 => loByte d.mwData
  | 0x24 => hiByte d.mwMask
  | 0x25 => loByte d.mwMask
  | _ => 0xFF

/-- A word read in the DMA window (44 R303). -/
def Dma.read16 (d : Dma) (off : BitVec 6) : Half :=
  if off = 0x22 then d.mwData
  else if off = 0x24 then d.mwMask
  else (0xFF : Byte) ++ d.read8 (off + 1)

/-! ## The bus primitives -/

/-- `MemRead(a, 1)` (20 R74). -/
def State.memRead8 (s : State) (a : Addr) : Byte :=
  match regionOf a with
  | .ram x => s.mem.read x.toNat
  | .psg off => s.psg.read8 off
  | .dma off => s.dma.read8 off
  | .mfp off => Mfp.read8 s.params.gpipIn s.mfp off
  | .unmapped => 0xFF

/-- `MemRead(a, 2)`, a even (20 R75). -/
def State.memRead16 (s : State) (a : Addr) : Half :=
  match regionOf a with
  | .ram x => s.mem.read16 x.toNat
  | .psg off => s.psg.read16 off
  | .dma off => s.dma.read16 off
  | .mfp off => Mfp.read16 s.params.gpipIn s.mfp off
  | .unmapped => 0xFFFF

/-- `MemWrite(a, 1, v)` (20 R77). -/
def State.memWrite8 (s : State) (a : Addr) (v : Byte) : State :=
  match regionOf a with
  | .ram x => s.withMem (s.mem.write x.toNat v)
  | .psg off => s.withPsg (s.psg.write8 off v)
  | .dma off => s.withDma (s.dma.write8 off v)
  | .mfp off => s.withMfp (s.mfp.write8 off v)
  | .unmapped => s

/-- `MemWrite(a, 2, v)`, a even (20 R77; the PSG takes `data[15:8]`, 30 R104). -/
def State.memWrite16 (s : State) (a : Addr) (v : Half) : State :=
  match regionOf a with
  | .ram x => s.withMem (s.mem.write16 x.toNat v)
  | .psg off => s.withPsg (s.psg.write8 off (hiByte v))
  | .dma off => s.withDma (s.dma.write16 off v)
  | .mfp off => s.withMfp (s.mfp.write16 off v)
  | .unmapped => s

/-- `MemRead(a, 4) = MemRead(a, 2) : MemRead(a + 2, 2)` (20 R78). -/
def State.memRead32 (s : State) (a : Addr) : Long := s.memRead16 a ++ s.memRead16 (a + 2)

/-- `MemWrite(a, 4, v)`: the high half, then the low half (20 R78). -/
def State.memWrite32 (s : State) (a : Addr) (v : Long) : State :=
  (s.memWrite16 a (hiHalf v)).memWrite16 (a + 2) (loHalf v)

/-- Whether the second half of a long access would leave the 24-bit space (20 R79). -/
def longLeavesSpace (a : Addr) : Bool := decide (2 ^ 24 ≤ a.toNat + 2)

/-! ## Taking an exception -/

/-- `raise <Condition>(info)`: the first condition of a run is kept, with its info (60 R400). -/
def State.raise (s : State) (c : ExitCode) (info : Long) : State :=
  if s.exit = .none then { s with exit := c, exitInfo := info } else s

/-- `AddressViolation(addr)`: no memory or device state changes; a read is answered with all ones
(20 R79, 60 R401). -/
def State.violation (s : State) (addr : Nat) (b : BusData) : State :=
  { s.raise .addressViolation (BitVec.ofNat 32 addr) with out := { s.out with bus := b } }

/-- All ones at a read's width; a write leaves the answer as it was (60 R401). -/
def violationAnswer (op : BusOp) (before : BusData) : BusData :=
  match op with
  | .readByte => .byte 0xFF
  | .readWord => .word 0xFFFF
  | .readLong => .long 0xFFFFFFFF
  | .writeByte _ | .writeWord _ | .writeLong _ => before

/-- `CPU.pulseReset()`: SSP from `MemRead(0, 4)`, PC from `MemRead(4, 4)`, SR = 0x2700; D0 is left
to the agent (45 R330 item 2). -/
def State.pulseReset (s : State) : State :=
  s.withCpu ⟨s.mem.read32 0, s.mem.read32 4, 0x2700, none⟩

/-- The stack pointer a run starts with (45 R340). -/
def frameBase : Path → Nat
  | .rts => Config.stackTop - 4
  | .rte => Config.stackTop - 6

/-- The return frame of a run (45 R340). -/
def Memory.pushFrame (m : Memory) : Path → Memory
  | .rts => m.write32 (frameBase .rts) (BitVec.ofNat 32 Config.sentinelRts)
  | .rte =>
    (m.write16 (frameBase .rte) 0x2700).write32 (frameBase .rte + 2) (BitVec.ofNat 32 Config.sentinelRte)

/-- The simulated reset vector: SSP at 0, PC at 4 (45 R340). -/
def Memory.setVector (m : Memory) (sp : Nat) (entry : Addr) : Memory :=
  (m.write32 0 (BitVec.ofNat 32 sp)).write32 4 (entry.setWidth 32)

/-- `RunUntilReturn` up to the point where the CPU agent runs: the frame, the vector, the pulse, D0
(45 R340). The rest of it is `leaveRun`, when the agent's last `runCycles` returns. -/
def State.enterRun (s : State) (c : Caller) (entry : Addr) (path : Path) (frames : Nat) (d0 : Option Long) :
    State :=
  let m := (s.mem.pushFrame path).setVector (frameBase path) entry
  let s1 := State.pulseReset { s with busy := true, exit := .none, exitInfo := 0, mem := m, run := ⟨c, frames⟩ }
  { s1 with cpu := { s1.cpu with d0 := d0 }, out := { s1.out with result := .pending, value := .none } }

/-- Entry of timer t's handler: acknowledge, tell the PSG, run from the vector with the RTE path
(45 R362, 60 R412; the vector's low 24 bits are the entry, log 13). -/
def State.dispatch (s : State) (t : Timer) (c : Caller) : State :=
  let s1 := (s.withMfp (s.mfp.acknowledge t)).withPsg (s.psg.insideTimerIrq true)
  s1.enterRun c ((s1.mem.read32 (vectorAddr t)).setWidth 24) .rte Config.irqTimeoutFrames none

/-- The end of a bounded execution: `busy` falls, and a fatal exit becomes the session's fault (45
R340, 60 R402). -/
def State.leaveRun (s : State) : State :=
  let s1 := { s with busy := false, run := .idle }
  if s.exit.fatal then
    { s1 with sessionFault := true, faultCode := s.exit, faultInfo := s.exitInfo }
  else s1

/-- The return from a handler: the deferred edge resets, and the failure kept (45 R362, R361). -/
def State.returnFromHandler (s : State) (ok : Bool) : State :=
  { s.withPsg (s.psg.insideTimerIrq false) with irqFailed := s.irqFailed || !ok }

end Sys2Proof.Machine
end

