-- ==== Sys2Proof/Machine/Bus.lean ====
section
/-! DEFINITION. Bus transactions to RAM and to unmapped addresses, long transactions, and address
violations (20_memory R74 to R79). -/

namespace Sys2Proof.Machine

open Sys2Proof

/-- `ADDRVIOL.A24` (20 R79, 60 R401). -/
def execAddrviolA24 (op : BusOp) (addr : WideAddr) (s : State) : Host.Outcome State Fault Refusal :=
  .next (s.violation addr.toNat (violationAnswer op s.out.bus))

/-- `ADDRVIOL.A25` (20 R79, 60 R401). -/
def execAddrviolA25 (op : BusOp) (addr : WideAddr) (s : State) : Host.Outcome State Fault Refusal :=
  .next (s.violation addr.toNat (violationAnswer op s.out.bus))

/-- `ADDRVIOL.A26` (20 R79, 60 R401). -/
def execAddrviolA26 (op : BusOp) (addr : WideAddr) (s : State) : Host.Outcome State Fault Refusal :=
  .next (s.violation addr.toNat (violationAnswer op s.out.bus))

/-- `ADDRVIOL.A27` (20 R79, 60 R401). -/
def execAddrviolA27 (op : BusOp) (addr : WideAddr) (s : State) : Host.Outcome State Fault Refusal :=
  .next (s.violation addr.toNat (violationAnswer op s.out.bus))

/-- `BUS.RD.L` (20 R78); the width check covers both halves (20 R79, log 12). -/
def execBusRdL (addr : Addr) (s : State) : Host.Outcome State Fault Refusal :=
  if longLeavesSpace addr then .next (s.violation (addr.toNat + 2) (.long 0xFFFFFFFF))
  else .next (s.withBus (.long (s.memRead32 addr)))

/-- `BUS.WR.L` (20 R78); nothing is written when either half leaves the space (20 R79, log 12). -/
def execBusWrL (addr : Addr) (data : Long) (s : State) : Host.Outcome State Fault Refusal :=
  if longLeavesSpace addr then .next (s.violation (addr.toNat + 2) s.out.bus)
  else .next (s.memWrite32 addr data)

/-- `RAM.RD.B` (20 R74). -/
def execRamRdB (addr : BitVec 22) (s : State) : Host.Outcome State Fault Refusal :=
  .next (s.withBus (.byte (s.mem.read addr.toNat)))

/-- `RAM.RD.W` (20 R75). -/
def execRamRdW (addr : BitVec 22) (s : State) : Host.Outcome State Fault Refusal :=
  .next (s.withBus (.word (s.mem.read16 addr.toNat)))

/-- `RAM.WR.B` (20 R77). -/
def execRamWrB (addr : BitVec 22) (data : Byte) (s : State) : Host.Outcome State Fault Refusal :=
  .next (s.withMem (s.mem.write addr.toNat data))

/-- `RAM.WR.W` (20 R77). -/
def execRamWrW (addr : BitVec 22) (data : Half) (s : State) : Host.Outcome State Fault Refusal :=
  .next (s.withMem (s.mem.write16 addr.toNat data))

/-- `UNMAPPED.RD`: all ones at the read's width (20 R76). -/
def execUnmappedRd (size : Width) (_addr : Addr) (s : State) : Host.Outcome State Fault Refusal :=
  match size with
  | .byte => .next (s.withBus (.byte 0xFF))
  | .word => .next (s.withBus (.word 0xFFFF))

/-- `UNMAPPED.WR`: dropped (20 R76). -/
def execUnmappedWr (_data : WriteData) (_addr : Addr) (s : State) : Host.Outcome State Fault Refusal := .next s

end Sys2Proof.Machine
end

