-- ==== Sys2Proof/Machine/Callbacks.lean ====
section
/-! DEFINITION. The CPU core's callbacks (45_machine_sequencer R344 to R352). -/

namespace Sys2Proof.Machine

open Sys2Proof

/-- A callback reaches the machine whose bounded execution is in progress, and is refused when there
is none (45 R343). -/
def State.callback (s : State) (f : State → Host.Outcome State Fault Refusal) : Host.Outcome State Fault Refusal :=
  if s.busy then f s else .refused .callbackOutsideRun

/-- `CB.RESET`: an earlier condition is kept (45 R344). -/
def execCbReset (_pc : Addr) (s : State) : Host.Outcome State Fault Refusal :=
  s.callback fun s => .next (if s.exit = .none then { s with exit := .sentinel } else s)

/-- `CB.ILLEGAL` (45 R345). -/
def execCbIllegal (opcode : Half) (s : State) : Host.Outcome State Fault Refusal :=
  s.callback fun s => .next (s.raise .illegal (opcode.setWidth 32))

/-- `CPU.setRegister(D0, v)` (45 R330 item 4). -/
def State.setD0 (s : State) (v : Long) : State := s.withCpu { s.cpu with d0 := some v }

/-- A size rounded up to a multiple of 4, in unbounded arithmetic (45 R351). -/
def roundedSize (size : Long) : Nat := (size.toNat + 3) / 4 * 4

/-- `Malloc(size)` (45 R351). -/
def State.malloc (s : State) (size : Long) : State :=
  if size = 0xFFFFFFFF then s.setD0 (BitVec.ofNat 32 Config.ramSize - s.bump.setWidth 32)
  else if Config.ramSize < s.bump.toNat + roundedSize size then s.raise .allocOverflow size
  else State.setD0 { s with bump := s.bump + BitVec.ofNat 24 (roundedSize size) } (s.bump.setWidth 32)

/-- `Malloc(MemRead(sp + 2, 4))`, the read made through the bus: an address outside the 24-bit space
is a violation (20 R79), an odd one is refused (20 R80; log 15). -/
def State.mallocCall (s : State) : Host.Outcome State Fault Refusal :=
  let a := s.cpu.a7.toNat + 2
  if a % 2 = 1 then .refused .oddStack
  else if 2 ^ 24 ≤ a then .next (s.raise .addressViolation (BitVec.ofNat 32 a))
  else if 2 ^ 24 ≤ a + 2 then .next (s.raise .addressViolation (BitVec.ofNat 32 (a + 2)))
  else .next (s.malloc (s.memRead32 (BitVec.ofNat 24 a)))

/-- `CB.GEMDOS`: Malloc, Sversion, or an unsupported trap (45 R350, R352). -/
def execCbGemdos (fn : Half) (s : State) : Host.Outcome State Fault Refusal :=
  s.callback fun s =>
    if fn = 0x48 then s.mallocCall
    else if fn = 0x30 then .next (s.setD0 Config.osVersion)
    else .next (s.raise .unsupportedTrap (fn.setWidth 32))

end Sys2Proof.Machine
end

