-- ==== Sys2Proof/Machine/DmaUnit.lean ====
section
/-! DEFINITION. DMA sample production and the end of a frame (44_dma R290, R310 to R313), and DMA.Reset
(70 R443). -/

namespace Sys2Proof.Machine

open Sys2Proof

/-- `rate`, in frames per second (44 R290). -/
def Dma.rate (d : Dma) : Nat := Config.dmaRate (d.mode.extractLsb' 0 2)

/-- `mono` (44 R290). -/
def Dma.mono (d : Dma) : Bool := d.mode.getLsbD 7

/-- `frameSize`, in bytes (44 R290). -/
def Dma.frameSize (d : Dma) : Nat := if d.mono then 1 else 2

/-- Play enable (30 R110). -/
def Dma.playing (d : Dma) : Bool := d.ctrl.getLsbD 0

/-- Loop (30 R110). -/
def Dma.looping (d : Dma) : Bool := d.ctrl.getLsbD 1

/-- `Fetch(a)`: RAM, or 0 outside it; never a device window (44 R310, R312). -/
def dmaFetch (mem : Memory) (a : Nat) : Byte := if a < Config.ramSize then mem.read a else 0

/-- The frame at `ptr`, before the gain: signed mono, or the floor of the stereo average (44 R310). -/
def Dma.frameValue (mem : Memory) (d : Dma) : Int :=
  if d.mono then (dmaFetch mem d.ptr.toNat).toInt
  else ((dmaFetch mem d.ptr.toNat).toInt + (dmaFetch mem (d.ptr.toNat + 1)).toInt) / 2

/-- `EndOfFrame()` but for the event: loop latches the bounds again, one-shot stops (44 R311). -/
def Dma.endOfFrame (d : Dma) : Dma :=
  if d.looping then d.latch else { d with ctrl := d.ctrl &&& 2 }

/-- The loop of 44 R310 with n turns left. Each end of a frame is an event of timer A. -/
def dmaAdvance (rate : Nat) : Nat → Dma → Mfp → Dma × Mfp
  | 0, d, m => (d, m)
  | n + 1, d, m =>
    let d1 := { d with dacc := d.dacc - rate, ptr := d.ptr + BitVec.ofNat 24 d.frameSize }
    if d1.curEnd.toNat ≤ d1.ptr.toNat then
      let d2 := d1.endOfFrame
      if d2.playing then dmaAdvance rate n d2 (m.event .a)
      else ({ d2 with dacc := 0 }, m.event .a)
    else dmaAdvance rate n d1 m

/-- `DMA.ComputeNextSample`: the DMA unit and the timer unit after it, and the sample (44 R310). -/
def dmaSample (rate : Nat) (mem : Memory) (d : Dma) (m : Mfp) : (Dma × Mfp) × Int :=
  if d.playing then
    (dmaAdvance rate ((d.dacc + d.rate) / rate) { d with dacc := d.dacc + d.rate } m,
      d.frameValue mem * Config.dmaGain)
  else ((d, m), 0)

/-- `DMA.Reset()` (70 R443). -/
def Dma.resetAll : Dma := Dma.atReset

end Sys2Proof.Machine
end

