-- ==== Sys2Proof/Machine/PsgUnit.lean ====
section
/-! DEFINITION. The PSG's generators (41_psg_generators), down-sampler and DC removal (42_psg_output).
The tables of 41 R171 are an argument `T`, the parameters of 00 R5 an argument `q`. -/

namespace Sys2Proof.Machine

open Sys2Proof

/-! ## One internal tick (41 R160 to R170) -/

/-- Tone step of one voice (41 R162, R163). -/
def Psg.toneStep (p : Psg) (v : Voice) : Psg :=
  let c := p.toneCnt.get v + 1
  if atLeastOne (p.tonePeriod.get v).toNat ≤ c.toNat then
    { p with toneCnt := p.toneCnt.set v 0, edge := p.edge.set v (!p.edge.get v) }
  else { p with toneCnt := p.toneCnt.set v c }

/-- One step of the shift register: bits 0 and 3 fed back into bit 16, shifting right (41 R164). -/
def lfsrNext (l : BitVec 17) : BitVec 17 :=
  BitVec.ofBool (l.getLsbD 0 != l.getLsbD 3) ++ l.extractLsb' 1 16

/-- Noise step (41 R164). -/
def Psg.noiseStep (p : Psg) : Psg :=
  let c := p.noiseCnt + 1
  if atLeastOne p.noisePeriod.toNat ≤ c.toNat then
    { p with noiseCnt := 0, lfsr := lfsrNext p.lfsr, noiseBit := (lfsrNext p.lfsr).getLsbD 0 }
  else { p with noiseCnt := c }

/-- The envelope's position one step on; the wrap of an alternating table toggles `envAlt` (41 R166). -/
def Psg.envAdvance (q : Config.Params) (p : Psg) : Psg :=
  if p.envPos + 1 = 32 then
    { p with
      envPos := 0
      envAlt := if q.envAltMode = .mirror ∧ (p.envTab = 4 ∨ p.envTab = 8) then !p.envAlt else p.envAlt }
  else { p with envPos := p.envPos + 1 }

/-- Envelope step (41 R166). -/
def Psg.envStep (q : Config.Params) (p : Psg) : Psg :=
  let c := p.envCnt + 1
  if atLeastOne p.envPeriod.toNat ≤ c.toNat then Psg.envAdvance q { p with envCnt := 0 }
  else { p with envCnt := c }

/-- `envLevel()` (41 R167). -/
def Psg.envLevel (p : Psg) : BitVec 5 :=
  let e := envTable p.envTab (p.envPos + 32).toNat
  if p.envPos < 0 then e else if p.envAlt then e ^^^ 31 else e

/-- `lvl5[v]` (41 R169). -/
def Psg.level5 (p : Psg) (v : Voice) : BitVec 5 :=
  let vol := p.regs[volumeReg v]
  if !p.enabled v then 0
  else if vol.getLsbD 4 then p.envLevel
  else if vol.extractLsb' 0 4 = 0 then 0
  else vol.extractLsb' 0 4 ++ (1 : BitVec 1)

/-- `lvl4[v]` (41 R169). -/
def Psg.level4 (p : Psg) (v : Voice) : BitVec 4 :=
  let vol := p.regs[volumeReg v]
  if !p.enabled v then 0
  else if vol.getLsbD 4 then p.envLevel.extractLsb' 1 4
  else vol.extractLsb' 0 4

/-- The raw level of a tick (41 R171): voice A in the low nibble of the composite index. -/
def Psg.mixedLevel (T : Config.Tables) (q : Config.Params) (p : Psg) : Nat :=
  match q.mixMode with
  | .measured => (T.mix (p.level4 .c ++ p.level4 .b ++ p.level4 .a)).val
  | .linear => (T.vol (p.level5 .a)).val + (T.vol (p.level5 .b)).val + (T.vol (p.level5 .c)).val

/-- The last part of a tick: `level` and `voiceLvl` from the state after the generator steps (41 R170). -/
def Psg.latchLevel (T : Config.Tables) (q : Config.Params) (p : Psg) : Psg :=
  { p with level := BitVec.ofNat 16 (p.mixedLevel T q), voiceLvl := .of p.level5 }

/-- The generator steps of a tick, in the order of 41 R170: tones, half toggle, noise, envelope. -/
def Psg.generators (q : Config.Params) (p : Psg) : Psg :=
  let p1 := ((p.toneStep .a).toneStep .b).toneStep .c
  let p2 := { p1 with half := !p1.half }
  let p3 := if p2.half then p2.noiseStep else p2
  if q.envCadence = .full || p2.half then p3.envStep q else p3

/-- `PSG.Tick` (41 R170). The level it returns is the field `level`. -/
def Psg.tick (T : Config.Tables) (q : Config.Params) (p : Psg) : Psg :=
  (p.generators q).latchLevel T q

/-! ## The down-sampler (42 R201 to R203) -/

/-- How often the loop of 42 R201 runs in one sample. -/
def Psg.tickCount (rate : Nat) (p : Psg) : Nat := (p.psgAcc + Config.fInt) / rate

/-- One turn of the loop of 42 R201. -/
def Psg.timedTick (T : Config.Tables) (q : Config.Params) (rate : Nat) (p : Psg) : Psg :=
  { p with psgAcc := p.psgAcc - rate }.tick T q

/-- `MaxHold`: n turns of the loop with the largest level seen (42 R202). -/
def Psg.maxHold (T : Config.Tables) (q : Config.Params) (rate : Nat) : Nat → Psg → Nat → Psg × Nat
  | 0, p, raw => (p, raw)
  | n + 1, p, raw =>
    let p1 := p.timedTick T q rate
    Psg.maxHold T q rate n p1 (max raw p1.level.toNat)

/-- The loop variables of 42 R203: ticks so far, time of the last one, weighted sum. -/
structure Average where
  k   : Nat
  t   : Nat
  sum : Nat
deriving DecidableEq, Repr

/-- `LinearAverage`: n turns of the loop of 42 R203; `a0` is `psgAcc` before the sample. -/
def Psg.average (T : Config.Tables) (q : Config.Params) (rate a0 : Nat) : Nat → Psg → Average → Psg × Average
  | 0, p, v => (p, v)
  | n + 1, p, v =>
    let tk := (v.k + 1) * rate - a0
    Psg.average T q rate a0 n (p.timedTick T q rate) ⟨v.k + 1, tk, v.sum + p.level.toNat * (tk - v.t)⟩

/-- `Downsample()`: the PSG after the ticks of one sample, and the raw sample (42 R201 to R203). -/
def Psg.resample (T : Config.Tables) (q : Config.Params) (rate : Nat) (p : Psg) : Psg × Nat :=
  let n := p.tickCount rate
  let p1 := { p with psgAcc := p.psgAcc + Config.fInt }
  match q.downsample with
  | .maxHold => if n = 0 then (p1, p.level.toNat) else Psg.maxHold T q rate n p1 0
  | .linearAverage =>
    let r := Psg.average T q rate p.psgAcc n p1 ⟨0, 0, 0⟩
    (r.1, (r.2.sum + r.1.level.toNat * (Config.fInt - r.2.t)) / Config.fInt)

/-! ## DC removal (42 R205) -/

/-- `DcRemove(x)`: the history with x in place of its oldest entry. -/
def Psg.dcPush (p : Psg) (x : Nat) : Psg :=
  { p with
    dcSum := p.dcSum + x - (p.dcHist.getD p.dcIdx.val 0).toNat
    dcHist := p.dcHist.set p.dcIdx.val (BitVec.ofNat 16 x)
    dcIdx := p.dcIdx + 1 }

/-- `x - (dcSum div DC_LEN)`, the sum taken after the push. -/
def Psg.dcOut (p : Psg) (x : Nat) : Int := (x : Int) - ((p.dcSum / Config.dcLen : Nat) : Int)

/-- `PSG.ComputeNextSample` (42 R200): the PSG after it, and the sample. -/
def Psg.sample (T : Config.Tables) (q : Config.Params) (rate : Nat) (p : Psg) : Psg × Int :=
  let r := p.resample T q rate
  let p1 := r.1.dcPush r.2
  (p1, p1.dcOut r.2)

/-- The debug composite (42 R207): byte v is the level of voice v. -/
def Psg.debugWord (p : Psg) : Long :=
  (0 : Byte) ++ p.voiceLvl.c.setWidth 8 ++ p.voiceLvl.b.setWidth 8 ++ p.voiceLvl.a.setWidth 8

end Sys2Proof.Machine
end

