-- ==== Sys2Proof/Machine/TimerUnit.lean ====
section
/-! DEFINITION. Timer.Tick and the delay-mode countdown (43_timer R242, R260), and Timer.Reset (70 R442). -/

namespace Sys2Proof.Machine

open Sys2Proof

/-- How often the loop of 43 R242 runs in one timer tick. -/
def Mfp.countdownTurns (rate : Nat) (m : Mfp) (t : Timer) : Nat :=
  (m.tacc.get t + Config.mfpClock) / (m.prescale t * rate)

/-- Delay-mode countdown: the accumulator takes `MFP_CLOCK` and gives one decrement for each
`P * HOST_RATE` in it (43 R242). -/
def Mfp.countdown (rate : Nat) (m : Mfp) (t : Timer) : Mfp :=
  let m1 := times (fun m => Mfp.decrement m t) (m.countdownTurns rate t) m
  { m1 with tacc := m.tacc.set t ((m.tacc.get t + Config.mfpClock) % (m.prescale t * rate)) }

/-- `Timer.Tick(t)` but for the signal it returns (43 R260). -/
def Mfp.tick (rate : Nat) (m : Mfp) (t : Timer) : Mfp :=
  if m.prescale t = 0 then m else m.countdown rate t

/-- `Timer.Reset()` (70 R442). -/
def Mfp.resetAll : Mfp := Mfp.atReset

end Sys2Proof.Machine
end

