-- ==== Sys2Proof/Machine/Driver.lean ====
section
/-! DEFINITION. The machine driver and the sequencer (45_machine_sequencer): Startup, per-sample
production with interrupt dispatch, the render loop, and what each caller of a bounded execution does
when it ends. A command runs here until it is done or until the CPU agent has to run (log 7): then
`busy` = 1 and `run` says how to go on. -/

namespace Sys2Proof.Machine

open Sys2Proof

/-! ## Startup -/

/-- `InstallSentinels()`: RESET at both addresses (45 R332). -/
def Memory.installSentinels (m : Memory) : Memory :=
  (m.write16 Config.sentinelRts 0x4E70).write16 Config.sentinelRte 0x4E70

/-- `InstallCookies()` (45 R333). -/
def Memory.installCookies (m : Memory) : Memory :=
  let jar := Config.cookieJarAddr
  let m1 := m.write32 Config.cookiePtrAddr (BitVec.ofNat 32 jar)
  let m2 := (m1.write32 jar 0x5F4D4348).write32 (jar + 0x04) 0x00010000
  let m3 := (m2.write32 (jar + 0x08) 0x5F534E44).write32 (jar + 0x0C) 0x00000003
  (m3.write32 (jar + 0x10) 0x00000000).write32 (jar + 0x14) 0x00000004

/-- `Startup(hostRate)` for a rate it accepts (45 R331). -/
def State.startup (s : State) (rate : Nat) : State :=
  State.pulseReset
    { s with
      started := true
      hostRate := rate
      mem := Memory.installCookies (Memory.installSentinels [])
      psg := Psg.resetOf s.params
      mfp := Mfp.resetAll
      dma := Dma.resetAll
      bump := BitVec.ofNat 24 Config.bumpBase
      exit := .none
      busy := false
      irqFailed := false
      sessionFault := false
      faultCode := .none
      faultInfo := 0
      exitInfo := 0
      seq := { s.seq with tickAcc := 0, curSubsong := 0 } }

/-! ## Results (60 R403) -/

/-- Why a call that ran the CPU failed: the session's fault if there is one, else a timeout (45 R374). -/
def State.failure (s : State) : Result :=
  if s.sessionFault then .failFatal s.faultCode s.faultInfo else .failTimeout

/-- The result of the host's `RunUntilReturn`, from the exit condition of its run alone (45 R340, 60 R403).
Where an earlier session fault stands and this run times out, R403 gives both FAIL_TIMEOUT and
FAIL_FATAL; FAIL_TIMEOUT is the model's choice (DESIGN CHOICE, log 27). -/
def State.runResult (s : State) : Result :=
  if s.exit = .sentinel then .ok
  else if s.exit.fatal then .failFatal s.exit s.exitInfo
  else .failTimeout

/-! ## One output sample (45 R360) -/

/-- The sample: PSG and DMA mixed and clamped to 16 bits, before any timer is ticked. -/
def State.mixSample (s : State) : State × Int :=
  let p := s.psg.sample Config.tables s.params s.hostRate
  let d := dmaSample s.hostRate s.mem s.dma s.mfp
  (((s.withPsg p.1).withDma d.1.1).withMfp d.1.2, clamp (p.2 + d.2) (-32768) 32767)

/-- `Timer.Tick(t)` on the state (43 R260). -/
def State.tickTimer (s : State) (t : Timer) : State := s.withMfp (s.mfp.tick s.hostRate t)

/-- `Signal(t)` on the state (43 R262). -/
def State.signals (s : State) (t : Timer) : Bool := s.mfp.signal s.params.isrGating t

/-- The timer loop of 45 R360. A timer that signals is dispatched: the CPU agent runs, and the timers
after it wait in the caller's record. -/
def State.timerLoop (sample : Int) (r : Option Render) : List Timer → State → State
  | [], s => s
  | t :: rest, s =>
    if s.sessionFault then s
    else if (s.tickTimer t).signals t then (s.tickTimer t).dispatch t (.irq rest sample r)
    else State.timerLoop sample r rest (s.tickTimer t)

/-! ## The render loop (45 R374) -/

/-- The sample into the caller's buffer, and the debug word if the host asked for it (42 R207). -/
def State.pushSample (s : State) (sample : Int) (debug : Bool) : State :=
  { s with
    out := { s.out with
      buf := s.out.buf ++ [sample]
      dbg := if debug then s.out.dbg ++ [s.psg.debugWord] else s.out.dbg } }

/-- `tickAcc` lowered by one tick, and the play call started (45 R374, R373). -/
def State.startPlay (s : State) (r : Render) : State :=
  State.enterRun { s with seq := { s.seq with tickAcc := s.seq.tickAcc - s.hostRate } } (.play r)
    (BitVec.ofNat 24 (Config.loadAddr + 8)) .rts (Config.tickTimeoutFrames s.seq.tickRate) none

/-- Whether the render ends after a sample (45 R374). -/
def State.sampleFailed (s : State) : Bool := s.sessionFault || s.irqFailed

/-- The end of the loop body: `tickAcc <- tickAcc + tickRate`. -/
def State.advanceTick (s : State) : State :=
  { s with seq := { s.seq with tickAcc := s.seq.tickAcc + s.seq.tickRate } }

/-- The loop of 45 R374 with n samples left. -/
def State.renderLoop : Nat → Render → State → State
  | 0, r, s => s.answer .ok (.written r.done)
  | n + 1, r, s =>
    if s.hostRate ≤ s.seq.tickAcc then s.startPlay r
    else
      let s1 := State.timerLoop s.mixSample.2 (some r) allTimers s.mixSample.1
      if s1.busy then s1
      else
        let s2 := s1.pushSample s.mixSample.2 r.debug
        if s2.sampleFailed then s2.answer s2.failure (.written (r.done + 1))
        else State.renderLoop n { r with done := r.done + 1 } s2.advanceTick

/-- What is left of a sample's production once its timers are done: of the host command, or of one
turn of the render loop and the turns after it. The debug request of the host command is read here, when
the sample is answered, and so after the handlers that ran for it; R207 does not say when (DESIGN CHOICE,
log 23). -/
def State.finishSample (sample : Int) (r : Option Render) (s : State) : State :=
  match r with
  | none =>
    { s with out := { s.out with
        result := .ok
        value := .sample sample
        dbg := if s.oob.debug then [s.psg.debugWord] else [] } }
  | some r =>
    let s2 := s.pushSample sample r.debug
    if s2.sampleFailed then s2.answer s2.failure (.written (r.done + 1))
    else State.renderLoop (r.total - (r.done + 1)) { r with done := r.done + 1 } s2.advanceTick

/-- `Machine.ComputeNextSample` (45 R360) as a host command. -/
def State.computeSample (s : State) : State :=
  let s1 := State.timerLoop s.mixSample.2 none allTimers s.mixSample.1
  if s1.busy then s1 else s1.finishSample s.mixSample.2 none

/-! ## After a bounded execution -/

/-- `InitSubSong` after its init call (45 R372). -/
def State.finishInit (s : State) (id : Nat) (ok : Bool) : State :=
  let s1 := { s with
    irqFailed := false
    seq := { s.seq with tickAcc := s.hostRate, curSubsong := if ok then id else 0 } }
  s1.answer (if ok then .ok else s1.failure) .none

/-- What the caller does with the run's outcome (45 R340, R362, R372, R374). -/
def State.resume (c : Caller) (ok : Bool) (s : State) : State :=
  match c with
  | .host => s.answer s.runResult .none
  | .init id => s.finishInit id ok
  | .play r =>
    if ok then State.renderLoop (r.total - r.done) r s
    else s.answer s.failure (.written r.done)
  | .irq rest sample r =>
    let s1 := State.timerLoop sample r rest (s.returnFromHandler ok)
    if s1.busy then s1 else s1.finishSample sample r

/-- The CPU agent returned from `runCycles`: the loop of 45 R342 goes on with the next slice, or the
run ends. Returning before the slice's cycles are consumed, without an exit condition, breaks the
agent's contract (45 R330 item 3, log 8). -/
def State.agentReturn (s : State) (cycles : Nat) : Host.Outcome State Fault Refusal :=
  if !s.busy then .refused .agentOutsideRun
  else if s.exit = .none ∧ cycles < Config.frameCycles then .fault .agentContract
  else if s.exit = .none ∧ 1 < s.run.framesLeft then
    .next { s with run := { s.run with framesLeft := s.run.framesLeft - 1 } }
  else .next (State.resume s.run.caller (s.exit = .sentinel) s.leaveRun)

end Sys2Proof.Machine
end

