-- ==== Sys2Proof/Machine/Commands.lean ====
section
/-! DEFINITION. The host commands and the unit commands (30_encoding R112; 45_machine_sequencer R331
to R375). -/

namespace Sys2Proof.Machine

open Sys2Proof

/-- A command that breaks a precondition is answered `REFUSED` and changes nothing (60 R403, log 10). -/
def State.refuse (s : State) : State := s.answer .refused .none

/-- A command that needs a started, idle machine: refused before the first Startup (70 R440) and while
a bounded execution runs (45 R341, 70 R457; log 11). -/
def State.command (s : State) (f : State → State) : Host.Outcome State Fault Refusal :=
  if !s.started || s.busy then .next s.refuse else .next (f s)

/-! ## Host commands -/

/-- `CMD.Startup` (45 R331); allowed on an unstarted machine (70 R440). -/
def execCmdStartup (hostRate : Long) (s : State) : Host.Outcome State Fault Refusal :=
  if s.busy then .next s.refuse
  else if Config.hostRateOk hostRate.toNat then
    .next ((s.startup hostRate.toNat).answer .ok .none)
  else .next s.refuse

/-- What Load asks of the loader's outputs (45 R370; one duration for each subsong, log 17). -/
def SongModule.acceptable (m : SongModule) : Bool :=
  m.headerOk && decide (1 ≤ m.subsongCount) && decide (m.subsongCount ≤ 128) && m.tickRate != 0
    && m.duration.length == m.subsongCount

/-- Load's failure: the machine stays unloaded (45 R370). -/
def State.loadFailed (s : State) : State :=
  State.answer { s with seq := { s.seq with loaded := false } } .failInvalid .none

/-- Load of an acceptable module: its fields kept, then Startup (45 R370). -/
def State.loadModule (s : State) (m : SongModule) (secs : Long) : State :=
  let q : Seq :=
    { s.seq with
      loaded := true
      subsongCount := m.subsongCount
      duration := m.duration
      tickRate := m.tickRate
      image := m.image
      defaultDurationSeconds := secs }
  (State.startup { s with seq := q } s.oob.hostRate).answer .ok .none

/-- `CMD.Load` (45 R370); a rate Startup would refuse refuses the whole command (log 16). -/
def execCmdLoad (defaultDurationSeconds : Long) (s : State) : Host.Outcome State Fault Refusal :=
  if s.busy then .next s.refuse
  else
    match s.oob.song with
    | none => .next s.loadFailed
    | some m =>
      if !m.acceptable then .next s.loadFailed
      else if Config.hostRateOk s.oob.hostRate then .next (s.loadModule m defaultDurationSeconds)
      else .next s.refuse

/-- Whether the sequencer has the subsong (45 R371, R372). -/
def State.hasSubsong (s : State) (id : Nat) : Bool :=
  s.seq.loaded && decide (1 ≤ id) && decide (id ≤ s.seq.subsongCount)

/-- The metadata of a subsong (45 R371). -/
def State.subsongInfo (s : State) (id : Nat) : SubsongInfo where
  subsongCount := s.seq.subsongCount
  tickCount := s.seq.duration.getD (id - 1) 0
  tickRate := s.seq.tickRate
  samplesPerTick := s.hostRate / s.seq.tickRate
  defaultDurationSeconds := s.seq.defaultDurationSeconds

/-- `CMD.GetSubsongInfo` (45 R371). -/
def execCmdGetSubsongInfo (id : Long) (s : State) : Host.Outcome State Fault Refusal :=
  s.command fun s =>
    if s.hasSubsong id.toNat then s.answer .ok (.info (s.subsongInfo id.toNat))
    else s.answer .failInvalid .none

/-- The start of a subsong: Startup, the upload, the init call (45 R372, R373). -/
def State.beginSubsong (s : State) (id : Long) : State :=
  let s1 := s.startup s.hostRate
  (s1.withMem (s1.mem.writeBytes Config.loadAddr s.seq.image)).enterRun (.init id.toNat)
    (BitVec.ofNat 24 Config.loadAddr) .rts Config.initTimeoutFrames (some id)

/-- `CMD.InitSubSong` (45 R372). -/
def execCmdInitSubSong (id : Long) (s : State) : Host.Outcome State Fault Refusal :=
  s.command fun s =>
    if s.hasSubsong id.toNat && decide (s.seq.image.length ≤ Config.ramSize - Config.loadAddr) then
      s.beginSubsong id
    else s.answer .failInvalid .none

/-- A render that writes no sample (45 R374). -/
def State.renderNothing (s : State) (r : Result) : State :=
  State.answer { s with out := { s.out with buf := [], dbg := [] } } r (.written 0)

/-- A render begins: `irqFailed` falls and the caller's buffer is empty (45 R374). The debug request of the
whole render is read here (DESIGN CHOICE, log 23). -/
def State.beginRender (s : State) (n : Nat) : State :=
  State.renderLoop n ⟨n, 0, s.oob.debug⟩
    { s with irqFailed := false, out := { s.out with buf := [], dbg := [] } }

/-- `CMD.AudioRender` (45 R374). -/
def execCmdAudioRender (n : Long) (s : State) : Host.Outcome State Fault Refusal :=
  s.command fun s =>
    if s.sessionFault then s.renderNothing (.failFatal s.faultCode s.faultInfo)
    else if s.seq.curSubsong = 0 then s.renderNothing .failInvalid
    else s.beginRender n.toNat

/-- `CMD.RunUntilReturn`, its operands out of band (45 R340); a budget below one frame is refused. -/
def execCmdRunUntilReturn (s : State) : Host.Outcome State Fault Refusal :=
  s.command fun s =>
    if s.oob.frames = 0 then s.refuse
    else s.enterRun .host s.oob.entry s.oob.path s.oob.frames s.oob.d0

/-- `CMD.ComputeNextSample` (45 R360). -/
def execCmdComputeNextSample (s : State) : Host.Outcome State Fault Refusal :=
  s.command State.computeSample

/-! ## Unit commands -/

/-- `CMD.PSG.WriteRegister` (40 R134). -/
def execCmdPsgWriteRegister (index : Byte) (value : Byte) (s : State) : Host.Outcome State Fault Refusal :=
  s.command fun s => (s.withPsg (s.psg.writeRegister index value)).answer .ok .none

/-- `CMD.PSG.Tick` (41 R170). -/
def execCmdPsgTick (s : State) : Host.Outcome State Fault Refusal :=
  s.command fun s =>
    let p := s.psg.tick Config.tables s.params
    (s.withPsg p).answer .ok (.level p.level)

/-- `CMD.PSG.ComputeNextSample` (42 R200). -/
def execCmdPsgComputeNextSample (s : State) : Host.Outcome State Fault Refusal :=
  s.command fun s =>
    let r := s.psg.sample Config.tables s.params s.hostRate
    (s.withPsg r.1).answer .ok (.sample r.2)

/-- `CMD.PSG.InsideTimerIrq` (42 R210). -/
def execCmdPsgInsideTimerIrq (flag : Bool) (s : State) : Host.Outcome State Fault Refusal :=
  s.command fun s => (s.withPsg (s.psg.insideTimerIrq flag)).answer .ok .none

/-- `CMD.PSG.Reset` (70 R441). -/
def execCmdPsgReset (s : State) : Host.Outcome State Fault Refusal :=
  s.command fun s => (s.withPsg (Psg.resetOf s.params)).answer .ok .none

/-- `CMD.Timer.Tick` (43 R260). -/
def execCmdTimerTick (t : Timer) (s : State) : Host.Outcome State Fault Refusal :=
  s.command fun s => (s.tickTimer t).answer .ok (.fired ((s.tickTimer t).signals t))

/-- `CMD.Timer.Reset` (70 R442). -/
def execCmdTimerReset (s : State) : Host.Outcome State Fault Refusal :=
  s.command fun s => (s.withMfp Mfp.resetAll).answer .ok .none

/-- `CMD.Timer.Acknowledge` (43 R263). -/
def execCmdTimerAcknowledge (t : Timer) (s : State) : Host.Outcome State Fault Refusal :=
  s.command fun s => (s.withMfp (s.mfp.acknowledge t)).answer .ok .none

/-- `CMD.Timer.Event` (43 R261). -/
def execCmdTimerEvent (t : Timer) (s : State) : Host.Outcome State Fault Refusal :=
  s.command fun s => (s.withMfp (s.mfp.event t)).answer .ok .none

/-- `CMD.DMA.ComputeNextSample` (44 R310). -/
def execCmdDmaComputeNextSample (s : State) : Host.Outcome State Fault Refusal :=
  s.command fun s =>
    let r := dmaSample s.hostRate s.mem s.dma s.mfp
    ((s.withDma r.1.1).withMfp r.1.2).answer .ok (.sample r.2)

/-- `CMD.DMA.Reset` (70 R443). -/
def execCmdDmaReset (s : State) : Host.Outcome State Fault Refusal :=
  s.command fun s => (s.withDma Dma.resetAll).answer .ok .none

end Sys2Proof.Machine
end

