-- ==== Sys2Proof/Machine/DmaPorts.lean ====
section
/-! DEFINITION. Bus transactions to the DMA window (44_dma R300 to R305). -/

namespace Sys2Proof.Machine

open Sys2Proof

/-- `DMA.WR.CTRL` (44 R302). -/
def execDmaWrCtrl (b : Byte) (s : State) : Host.Outcome State Fault Refusal :=
  .next (s.withDma (s.dma.write .ctrl b))

/-- `DMA.WR.START.H` (44 R301). -/
def execDmaWrStartH (b : Byte) (s : State) : Host.Outcome State Fault Refusal :=
  .next (s.withDma (s.dma.write .startH b))

/-- `DMA.WR.START.M` (44 R301). -/
def execDmaWrStartM (b : Byte) (s : State) : Host.Outcome State Fault Refusal :=
  .next (s.withDma (s.dma.write .startM b))

/-- `DMA.WR.START.L` (44 R301). -/
def execDmaWrStartL (b : Byte) (s : State) : Host.Outcome State Fault Refusal :=
  .next (s.withDma (s.dma.write .startL b))

/-- `DMA.WR.END.H` (44 R301). -/
def execDmaWrEndH (b : Byte) (s : State) : Host.Outcome State Fault Refusal :=
  .next (s.withDma (s.dma.write .endH b))

/-- `DMA.WR.END.M` (44 R301). -/
def execDmaWrEndM (b : Byte) (s : State) : Host.Outcome State Fault Refusal :=
  .next (s.withDma (s.dma.write .endM b))

/-- `DMA.WR.END.L` (44 R301). -/
def execDmaWrEndL (b : Byte) (s : State) : Host.Outcome State Fault Refusal :=
  .next (s.withDma (s.dma.write .endL b))

/-- `DMA.WR.MODE` (44 R304). -/
def execDmaWrMode (b : Byte) (s : State) : Host.Outcome State Fault Refusal :=
  .next (s.withDma (s.dma.write .mode b))

/-- `DMA.WR.MWDATA.B`: the odd offset holds bits [7:0] (44 R300). -/
def execDmaWrMwdataB (low : Bool) (b : Byte) (s : State) : Host.Outcome State Fault Refusal :=
  .next (s.withDma (s.dma.write (if low then .mwDataL else .mwDataH) b))

/-- `DMA.WR.MWMASK.B`: the odd offset holds bits [7:0] (44 R300). -/
def execDmaWrMwmaskB (low : Bool) (b : Byte) (s : State) : Host.Outcome State Fault Refusal :=
  .next (s.withDma (s.dma.write (if low then .mwMaskL else .mwMaskH) b))

/-- `DMA.WR.DROP.B` (44 R305). -/
def execDmaWrDropB (_off : BitVec 6) (_b : Byte) (s : State) : Host.Outcome State Fault Refusal := .next s

/-- `DMA.WR.MWDATA.W` (44 R300). -/
def execDmaWrMwdataW (w : Half) (s : State) : Host.Outcome State Fault Refusal :=
  .next (s.withDma { s.dma with mwData := w })

/-- `DMA.WR.MWMASK.W` (44 R300). -/
def execDmaWrMwmaskW (w : Half) (s : State) : Host.Outcome State Fault Refusal :=
  .next (s.withDma { s.dma with mwMask := w })

/-- `DMA.WR.W` (44 R305). -/
def execDmaWrW (off : BitVec 6) (w : Half) (s : State) : Host.Outcome State Fault Refusal :=
  .next (s.withDma (s.dma.write16 off w))

/-- `DMA.RD.B` (44 R303). -/
def execDmaRdB (off : BitVec 6) (s : State) : Host.Outcome State Fault Refusal :=
  .next (s.withBus (.byte (s.dma.read8 off)))

/-- `DMA.RD.W` (44 R303). -/
def execDmaRdW (off : BitVec 6) (s : State) : Host.Outcome State Fault Refusal :=
  .next (s.withBus (.word (s.dma.read16 off)))

end Sys2Proof.Machine
end

