-- ==== Sys2Proof/Machine/MfpPorts.lean ====
section
/-! DEFINITION. Bus transactions to the timer-unit window (43_timer R241 to R254, 30_encoding R105). -/

namespace Sys2Proof.Machine

open Sys2Proof

/-- `MFP.WR.GPIP` (43 R249). -/
def execMfpWrGpip (b : Byte) (s : State) : Host.Outcome State Fault Refusal :=
  .next (s.withMfp (s.mfp.write .gpip b))

/-- `MFP.WR.AER` (43 R249). -/
def execMfpWrAer (b : Byte) (s : State) : Host.Outcome State Fault Refusal :=
  .next (s.withMfp (s.mfp.write .aer b))

/-- `MFP.WR.DDR` (43 R249). -/
def execMfpWrDdr (b : Byte) (s : State) : Host.Outcome State Fault Refusal :=
  .next (s.withMfp (s.mfp.write .ddr b))

/-- `MFP.WR.IERA` (43 R250). -/
def execMfpWrIera (b : Byte) (s : State) : Host.Outcome State Fault Refusal :=
  .next (s.withMfp (s.mfp.write .iera b))

/-- `MFP.WR.IERB` (43 R250). -/
def execMfpWrIerb (b : Byte) (s : State) : Host.Outcome State Fault Refusal :=
  .next (s.withMfp (s.mfp.write .ierb b))

/-- `MFP.WR.IPRA` (43 R251). -/
def execMfpWrIpra (b : Byte) (s : State) : Host.Outcome State Fault Refusal :=
  .next (s.withMfp (s.mfp.write .ipra b))

/-- `MFP.WR.IPRB` (43 R251). -/
def execMfpWrIprb (b : Byte) (s : State) : Host.Outcome State Fault Refusal :=
  .next (s.withMfp (s.mfp.write .iprb b))

/-- `MFP.WR.ISRA` (43 R252). -/
def execMfpWrIsra (b : Byte) (s : State) : Host.Outcome State Fault Refusal :=
  .next (s.withMfp (s.mfp.write .isra b))

/-- `MFP.WR.ISRB` (43 R252). -/
def execMfpWrIsrb (b : Byte) (s : State) : Host.Outcome State Fault Refusal :=
  .next (s.withMfp (s.mfp.write .isrb b))

/-- `MFP.WR.IMRA` (43 R253). -/
def execMfpWrImra (b : Byte) (s : State) : Host.Outcome State Fault Refusal :=
  .next (s.withMfp (s.mfp.write .imra b))

/-- `MFP.WR.IMRB` (43 R253). -/
def execMfpWrImrb (b : Byte) (s : State) : Host.Outcome State Fault Refusal :=
  .next (s.withMfp (s.mfp.write .imrb b))

/-- `MFP.WR.VR` (43 R254). -/
def execMfpWrVr (b : Byte) (s : State) : Host.Outcome State Fault Refusal :=
  .next (s.withMfp (s.mfp.write .vr b))

/-- `MFP.WR.TACR` (43 R241). -/
def execMfpWrTacr (b : Byte) (s : State) : Host.Outcome State Fault Refusal :=
  .next (s.withMfp (s.mfp.write .tacr b))

/-- `MFP.WR.TBCR` (43 R241). -/
def execMfpWrTbcr (b : Byte) (s : State) : Host.Outcome State Fault Refusal :=
  .next (s.withMfp (s.mfp.write .tbcr b))

/-- `MFP.WR.TCDCR` (43 R241). -/
def execMfpWrTcdcr (b : Byte) (s : State) : Host.Outcome State Fault Refusal :=
  .next (s.withMfp (s.mfp.write .tcdcr b))

/-- `MFP.WR.TADR` (43 R246). -/
def execMfpWrTadr (b : Byte) (s : State) : Host.Outcome State Fault Refusal :=
  .next (s.withMfp (s.mfp.write .tadr b))

/-- `MFP.WR.TBDR` (43 R246). -/
def execMfpWrTbdr (b : Byte) (s : State) : Host.Outcome State Fault Refusal :=
  .next (s.withMfp (s.mfp.write .tbdr b))

/-- `MFP.WR.TCDR` (43 R246). -/
def execMfpWrTcdr (b : Byte) (s : State) : Host.Outcome State Fault Refusal :=
  .next (s.withMfp (s.mfp.write .tcdr b))

/-- `MFP.WR.TDDR` (43 R246). -/
def execMfpWrTddr (b : Byte) (s : State) : Host.Outcome State Fault Refusal :=
  .next (s.withMfp (s.mfp.write .tddr b))

/-- `MFP.WR.SCR` (43 R249). -/
def execMfpWrScr (b : Byte) (s : State) : Host.Outcome State Fault Refusal :=
  .next (s.withMfp (s.mfp.write .scr b))

/-- `MFP.WR.UCR` (43 R249). -/
def execMfpWrUcr (b : Byte) (s : State) : Host.Outcome State Fault Refusal :=
  .next (s.withMfp (s.mfp.write .ucr b))

/-- `MFP.WR.RSR` (43 R249). -/
def execMfpWrRsr (b : Byte) (s : State) : Host.Outcome State Fault Refusal :=
  .next (s.withMfp (s.mfp.write .rsr b))

/-- `MFP.WR.TSR` (43 R249). -/
def execMfpWrTsr (b : Byte) (s : State) : Host.Outcome State Fault Refusal :=
  .next (s.withMfp (s.mfp.write .tsr b))

/-- `MFP.WR.UDR` (43 R249). -/
def execMfpWrUdr (b : Byte) (s : State) : Host.Outcome State Fault Refusal :=
  .next (s.withMfp (s.mfp.write .udr b))

/-- `MFP.WR.DROP.B` (30 R105). -/
def execMfpWrDropB (_off : BitVec 6) (_b : Byte) (s : State) : Host.Outcome State Fault Refusal := .next s

/-- `MFP.WR.W` (30 R105). -/
def execMfpWrW (off : BitVec 6) (w : Half) (s : State) : Host.Outcome State Fault Refusal :=
  .next (s.withMfp (s.mfp.write16 off w))

/-- `MFP.RD.B` (43 R247). -/
def execMfpRdB (off : BitVec 6) (s : State) : Host.Outcome State Fault Refusal :=
  .next (s.withBus (.byte (Mfp.read8 s.params.gpipIn s.mfp off)))

/-- `MFP.RD.W` (43 R247). -/
def execMfpRdW (off : BitVec 6) (s : State) : Host.Outcome State Fault Refusal :=
  .next (s.withBus (.word (Mfp.read16 s.params.gpipIn s.mfp off)))

end Sys2Proof.Machine
end

