-- ==== Sys2Proof/Machine/PsgPorts.lean ====
section
/-! DEFINITION. Bus transactions to the PSG window (40_psg_registers R130 to R133). -/

namespace Sys2Proof.Machine

open Sys2Proof

/-- `PSG.SELECT.B` (40 R130). -/
def execPsgSelectB (_off : Byte) (b : Byte) (s : State) : Host.Outcome State Fault Refusal :=
  .next (s.withPsg (s.psg.select b))

/-- `PSG.SELECT.W` (40 R130). -/
def execPsgSelectW (_off : Byte) (b : Byte) (s : State) : Host.Outcome State Fault Refusal :=
  .next (s.withPsg (s.psg.select b))

/-- `PSG.DATA.B` (40 R132). -/
def execPsgDataB (_off : Byte) (b : Byte) (s : State) : Host.Outcome State Fault Refusal :=
  .next (s.withPsg (s.psg.writeData b))

/-- `PSG.DATA.W` (40 R132). -/
def execPsgDataW (_off : Byte) (b : Byte) (s : State) : Host.Outcome State Fault Refusal :=
  .next (s.withPsg (s.psg.writeData b))

/-- `PSG.READ.B` (40 R133). -/
def execPsgReadB (off : Byte) (s : State) : Host.Outcome State Fault Refusal :=
  .next (s.withBus (.byte (s.psg.read8 off)))

/-- `PSG.READ.W` (40 R133). -/
def execPsgReadW (off : Byte) (s : State) : Host.Outcome State Fault Refusal :=
  .next (s.withBus (.word (s.psg.read16 off)))

end Sys2Proof.Machine
end

