-- ==== Sys2Proof/Machine/Dispatch.lean ====
section
/-! DEFINITION. One arm per constructor of Instr, each a call of its meaning. -/

namespace Sys2Proof.Machine

open Sys2Proof

/-- The meaning of an instruction. -/
def exec (i : Instr) (s : State) : Host.Outcome State Fault Refusal :=
  match i with
  | .addrviolA24 op addr => Sys2Proof.Machine.execAddrviolA24 op addr s
  | .addrviolA25 op addr => Sys2Proof.Machine.execAddrviolA25 op addr s
  | .addrviolA26 op addr => Sys2Proof.Machine.execAddrviolA26 op addr s
  | .addrviolA27 op addr => Sys2Proof.Machine.execAddrviolA27 op addr s
  | .busRdL addr => Sys2Proof.Machine.execBusRdL addr s
  | .busWrL addr data => Sys2Proof.Machine.execBusWrL addr data s
  | .ramRdB addr => Sys2Proof.Machine.execRamRdB addr s
  | .ramRdW addr => Sys2Proof.Machine.execRamRdW addr s
  | .ramWrB addr data => Sys2Proof.Machine.execRamWrB addr data s
  | .ramWrW addr data => Sys2Proof.Machine.execRamWrW addr data s
  | .psgSelectB off b => Sys2Proof.Machine.execPsgSelectB off b s
  | .psgSelectW off b => Sys2Proof.Machine.execPsgSelectW off b s
  | .psgDataB off b => Sys2Proof.Machine.execPsgDataB off b s
  | .psgDataW off b => Sys2Proof.Machine.execPsgDataW off b s
  | .psgReadB off => Sys2Proof.Machine.execPsgReadB off s
  | .psgReadW off => Sys2Proof.Machine.execPsgReadW off s
  | .dmaWrCtrl b => Sys2Proof.Machine.execDmaWrCtrl b s
  | .dmaWrStartH b => Sys2Proof.Machine.execDmaWrStartH b s
  | .dmaWrStartM b => Sys2Proof.Machine.execDmaWrStartM b s
  | .dmaWrStartL b => Sys2Proof.Machine.execDmaWrStartL b s
  | .dmaWrEndH b => Sys2Proof.Machine.execDmaWrEndH b s
  | .dmaWrEndM b => Sys2Proof.Machine.execDmaWrEndM b s
  | .dmaWrEndL b => Sys2Proof.Machine.execDmaWrEndL b s
  | .dmaWrMode b => Sys2Proof.Machine.execDmaWrMode b s
  | .dmaWrMwdataB low b => Sys2Proof.Machine.execDmaWrMwdataB low b s
  | .dmaWrMwmaskB low b => Sys2Proof.Machine.execDmaWrMwmaskB low b s
  | .dmaWrDropB off b => Sys2Proof.Machine.execDmaWrDropB off b s
  | .dmaWrMwdataW w => Sys2Proof.Machine.execDmaWrMwdataW w s
  | .dmaWrMwmaskW w => Sys2Proof.Machine.execDmaWrMwmaskW w s
  | .dmaWrW off w => Sys2Proof.Machine.execDmaWrW off w s
  | .dmaRdB off => Sys2Proof.Machine.execDmaRdB off s
  | .dmaRdW off => Sys2Proof.Machine.execDmaRdW off s
  | .mfpWrGpip b => Sys2Proof.Machine.execMfpWrGpip b s
  | .mfpWrAer b => Sys2Proof.Machine.execMfpWrAer b s
  | .mfpWrDdr b => Sys2Proof.Machine.execMfpWrDdr b s
  | .mfpWrIera b => Sys2Proof.Machine.execMfpWrIera b s
  | .mfpWrIerb b => Sys2Proof.Machine.execMfpWrIerb b s
  | .mfpWrIpra b => Sys2Proof.Machine.execMfpWrIpra b s
  | .mfpWrIprb b => Sys2Proof.Machine.execMfpWrIprb b s
  | .mfpWrIsra b => Sys2Proof.Machine.execMfpWrIsra b s
  | .mfpWrIsrb b => Sys2Proof.Machine.execMfpWrIsrb b s
  | .mfpWrImra b => Sys2Proof.Machine.execMfpWrImra b s
  | .mfpWrImrb b => Sys2Proof.Machine.execMfpWrImrb b s
  | .mfpWrVr b => Sys2Proof.Machine.execMfpWrVr b s
  | .mfpWrTacr b => Sys2Proof.Machine.execMfpWrTacr b s
  | .mfpWrTbcr b => Sys2Proof.Machine.execMfpWrTbcr b s
  | .mfpWrTcdcr b => Sys2Proof.Machine.execMfpWrTcdcr b s
  | .mfpWrTadr b => Sys2Proof.Machine.execMfpWrTadr b s
  | .mfpWrTbdr b => Sys2Proof.Machine.execMfpWrTbdr b s
  | .mfpWrTcdr b => Sys2Proof.Machine.execMfpWrTcdr b s
  | .mfpWrTddr b => Sys2Proof.Machine.execMfpWrTddr b s
  | .mfpWrScr b => Sys2Proof.Machine.execMfpWrScr b s
  | .mfpWrUcr b => Sys2Proof.Machine.execMfpWrUcr b s
  | .mfpWrRsr b => Sys2Proof.Machine.execMfpWrRsr b s
  | .mfpWrTsr b => Sys2Proof.Machine.execMfpWrTsr b s
  | .mfpWrUdr b => Sys2Proof.Machine.execMfpWrUdr b s
  | .mfpWrDropB off b => Sys2Proof.Machine.execMfpWrDropB off b s
  | .mfpWrW off w => Sys2Proof.Machine.execMfpWrW off w s
  | .mfpRdB off => Sys2Proof.Machine.execMfpRdB off s
  | .mfpRdW off => Sys2Proof.Machine.execMfpRdW off s
  | .unmappedRd size addr => Sys2Proof.Machine.execUnmappedRd size addr s
  | .unmappedWr data addr => Sys2Proof.Machine.execUnmappedWr data addr s
  | .cmdStartup hostRate => Sys2Proof.Machine.execCmdStartup hostRate s
  | .cmdLoad defaultDurationSeconds => Sys2Proof.Machine.execCmdLoad defaultDurationSeconds s
  | .cmdGetSubsongInfo id => Sys2Proof.Machine.execCmdGetSubsongInfo id s
  | .cmdInitSubSong id => Sys2Proof.Machine.execCmdInitSubSong id s
  | .cmdAudioRender n => Sys2Proof.Machine.execCmdAudioRender n s
  | .cmdRunUntilReturn => Sys2Proof.Machine.execCmdRunUntilReturn s
  | .cmdComputeNextSample => Sys2Proof.Machine.execCmdComputeNextSample s
  | .cmdPsgWriteRegister index value => Sys2Proof.Machine.execCmdPsgWriteRegister index value s
  | .cmdPsgTick => Sys2Proof.Machine.execCmdPsgTick s
  | .cmdPsgComputeNextSample => Sys2Proof.Machine.execCmdPsgComputeNextSample s
  | .cmdPsgInsideTimerIrq flag => Sys2Proof.Machine.execCmdPsgInsideTimerIrq flag s
  | .cmdPsgReset => Sys2Proof.Machine.execCmdPsgReset s
  | .cmdTimerTick t => Sys2Proof.Machine.execCmdTimerTick t s
  | .cmdTimerReset => Sys2Proof.Machine.execCmdTimerReset s
  | .cmdTimerAcknowledge t => Sys2Proof.Machine.execCmdTimerAcknowledge t s
  | .cmdTimerEvent t => Sys2Proof.Machine.execCmdTimerEvent t s
  | .cmdDmaComputeNextSample => Sys2Proof.Machine.execCmdDmaComputeNextSample s
  | .cmdDmaReset => Sys2Proof.Machine.execCmdDmaReset s
  | .cbReset pc => Sys2Proof.Machine.execCbReset pc s
  | .cbIllegal opcode => Sys2Proof.Machine.execCbIllegal opcode s
  | .cbGemdos fn => Sys2Proof.Machine.execCbGemdos fn s

end Sys2Proof.Machine
end

