-- ==== Sys2Proof/Machine/Step.lean ====
section
/-! DEFINITION. One step of the machine: the next thing an outside agent presents is performed (20
R85; log 1). -/

namespace Sys2Proof.Machine

open Sys2Proof

/-- The transaction word is decoded and performed; a `Reserved` word is refused (30 R114). -/
def performWord (w : TxWord) (s : State) : Host.Outcome State Fault Refusal :=
  match decode w with
  | .ok i => exec i s
  | .error _ => .refused .reservedWord

/-- One step. With nothing presented the block does not move (60 R423, log 1). What the CPU agent calls,
bus or trap, reaches the block only while a bounded execution is in progress (45 R343, log 9). -/
def step (s : State) : Host.Outcome State Fault Refusal :=
  match s.inputs with
  | [] => .next s
  | .word w :: rest => performWord w { s with inputs := rest }
  | .agentWord w :: rest =>
    if s.busy then performWord w { s with inputs := rest } else .refused .callbackOutsideRun
  | .operands o :: rest => .next { s with inputs := rest, oob := o }
  | .agentA7 v :: rest => .next { s with inputs := rest, cpu := { s.cpu with a7 := v } }
  | .agentReturn cycles :: rest => State.agentReturn { s with inputs := rest } cycles

/-- `s` with a transaction word presented next, so that `step` performs it. A callback comes only from
a CPU agent whose bounded execution is in progress (45 R343), so the machine is put in one if it is
not (log 19). -/
def State.withFetchWord (s : State) (nbits w : Nat) : State :=
  let tw : TxWord := BitVec.ofNat 64 (w % 2 ^ nbits)
  let s1 := { s with inputs := .word tw :: s.inputs }
  if clsField tw = 3 ∧ s.busy = false then { s1 with busy := true, run := ⟨.host, 1⟩ } else s1

end Sys2Proof.Machine
end

