-- ==== Sys2Proof/WellFormed.lean ====
section
/-! DEFINITION. Which terms of `Instr` are operations of the block: the checks a field's type does not
make (30_encoding R102 to R106, R114). -/

namespace Sys2Proof

/-- The address bits the four `ADDRVIOL` rows test, lowest first (20 R79, 30 R114). -/
def violationAt (k : Nat) (addr : WideAddr) : Bool :=
  match k with
  | 24 => addr.getLsbD 24
  | 25 => !addr.getLsbD 24 && addr.getLsbD 25
  | 26 => !addr.getLsbD 24 && !addr.getLsbD 25 && addr.getLsbD 26
  | 27 => !addr.getLsbD 24 && !addr.getLsbD 25 && !addr.getLsbD 26 && addr.getLsbD 27
  | _ => false

/-- The well-formed instructions. -/
def Instr.wf : Instr → Bool
  | .addrviolA24 op addr => op.alignedAt addr && violationAt 24 addr
  | .addrviolA25 op addr => op.alignedAt addr && violationAt 25 addr
  | .addrviolA26 op addr => op.alignedAt addr && violationAt 26 addr
  | .addrviolA27 op addr => op.alignedAt addr && violationAt 27 addr
  | .busRdL addr => !addr.getLsbD 0
  | .busWrL addr _ => !addr.getLsbD 0
  | .ramRdB _ => true
  | .ramRdW addr => !addr.getLsbD 0
  | .ramWrB _ _ => true
  | .ramWrW addr _ => !addr.getLsbD 0
  | .psgSelectB off _ => !off.getLsbD 1
  | .psgSelectW off _ => !off.getLsbD 1 && !off.getLsbD 0
  | .psgDataB off _ => off.getLsbD 1
  | .psgDataW off _ => off.getLsbD 1 && !off.getLsbD 0
  | .psgReadB _ => true
  | .psgReadW off => !off.getLsbD 0
  | .dmaWrCtrl _ | .dmaWrStartH _ | .dmaWrStartM _ | .dmaWrStartL _ => true
  | .dmaWrEndH _ | .dmaWrEndM _ | .dmaWrEndL _ | .dmaWrMode _ => true
  | .dmaWrMwdataB _ _ | .dmaWrMwmaskB _ _ => true
  | .dmaWrDropB off _ => (DmaReg.ofOffset off).isNone
  | .dmaWrMwdataW _ | .dmaWrMwmaskW _ => true
  | .dmaWrW off _ => !off.getLsbD 0 && off != 0x22 && off != 0x24
  | .dmaRdB _ => true
  | .dmaRdW off => !off.getLsbD 0
  | .mfpWrGpip _ | .mfpWrAer _ | .mfpWrDdr _ | .mfpWrIera _ => true
  | .mfpWrIerb _ | .mfpWrIpra _ | .mfpWrIprb _ | .mfpWrIsra _ => true
  | .mfpWrIsrb _ | .mfpWrImra _ | .mfpWrImrb _ | .mfpWrVr _ => true
  | .mfpWrTacr _ | .mfpWrTbcr _ | .mfpWrTcdcr _ | .mfpWrTadr _ => true
  | .mfpWrTbdr _ | .mfpWrTcdr _ | .mfpWrTddr _ | .mfpWrScr _ => true
  | .mfpWrUcr _ | .mfpWrRsr _ | .mfpWrTsr _ | .mfpWrUdr _ => true
  | .mfpWrDropB off _ => (MfpReg.ofOffset off).isNone
  | .mfpWrW off _ => !off.getLsbD 0
  | .mfpRdB _ => true
  | .mfpRdW off => !off.getLsbD 0
  | .unmappedRd .byte addr => regionOf addr == .unmapped
  | .unmappedRd .word addr => regionOf addr == .unmapped && !addr.getLsbD 0
  | .unmappedWr (.byte _) addr => regionOf addr == .unmapped
  | .unmappedWr (.word _) addr => regionOf addr == .unmapped && !addr.getLsbD 0
  | .cmdStartup _ | .cmdLoad _ | .cmdGetSubsongInfo _ | .cmdInitSubSong _ | .cmdAudioRender _ => true
  | .cmdRunUntilReturn | .cmdComputeNextSample => true
  | .cmdPsgWriteRegister _ _ | .cmdPsgTick | .cmdPsgComputeNextSample => true
  | .cmdPsgInsideTimerIrq _ | .cmdPsgReset => true
  | .cmdTimerTick _ | .cmdTimerReset | .cmdTimerAcknowledge _ | .cmdTimerEvent _ => true
  | .cmdDmaComputeNextSample | .cmdDmaReset => true
  | .cbReset _ | .cbIllegal _ | .cbGemdos _ => true

end Sys2Proof
end

