-- ==== Sys2Proof/Safety.lean ====
section
/-! DEFINITION. The terms claims are stated in: the Reserved words of 30_encoding R114 written from the
rule and not from the decoder, a machine that takes commands, and the invariants of the units, of RAM
and of the session (10_state R22 to R46). -/

namespace Sys2Proof

/-! ## Reserved words (30 R100, R112 to R114) -/

/-- The command codes R112 lists. -/
def listedCommands : List Nat :=
  [0x01, 0x02, 0x03, 0x04, 0x05, 0x06, 0x07, 0x10, 0x11, 0x12, 0x13, 0x14, 0x20, 0x21, 0x22, 0x23, 0x30, 0x31]

/-- The callback codes R113 lists. -/
def listedCallbacks : List Nat := [0x01, 0x02, 0x03]

/-- A bus word that R114 refuses: `sz` = 11, or a word or long transaction at an odd address. -/
def ReservedBus (w : TxWord) : Prop :=
  w.extractLsb' 60 2 = 3 ∨ (w.extractLsb' 60 2 ≠ 0 ∧ w.getLsbD 32 = true)

/-- A command or callback word that R114 refuses: a reserved field that is not 0, or a code outside the list. -/
def ReservedCode (listed : List Nat) (w : TxWord) : Prop :=
  w.extractLsb' 56 6 ≠ 0 ∨ w.extractLsb' 32 16 ≠ 0 ∨ (w.extractLsb' 48 8).toNat ∉ listed

/-- The words R114 calls `Reserved`, by class. -/
def Reserved (w : TxWord) : Prop :=
  match (w.extractLsb' 62 2).toNat with
  | 0 | 1 => ReservedBus w
  | 2 => ReservedCode listedCommands w
  | _ => ReservedCode listedCallbacks w

end Sys2Proof

namespace Sys2Proof.Machine

open Sys2Proof

/-! ## Machines that take commands -/

/-- The machine takes a command: it has been started (70 R440) and no bounded execution runs (45 R341). -/
def State.ready (s : State) : Prop := s.started = true ∧ s.busy = false

/-- The instructions that only read the bus, below address bit 24 (20 R83). -/
def isBusRead : Instr → Bool
  | .ramRdB _ | .ramRdW _ | .psgReadB _ | .psgReadW _ | .dmaRdB _ | .dmaRdW _ => true
  | .mfpRdB _ | .mfpRdW _ | .unmappedRd _ _ => true
  | .busRdL addr => !longLeavesSpace addr
  | _ => false

/-! ## The spec's own tables -/

/-- `MASK` for indices 0 to 13, as 40 R134 lists it. -/
def maskList : List Byte :=
  [0xFF, 0x0F, 0xFF, 0x0F, 0xFF, 0x0F, 0x1F, 0xFF, 0x1F, 0x1F, 0x1F, 0xFF, 0xFF, 0x0F]

/-- `PRESCALE[m]` for modes 1 to 7 (30 R108); every other mode value counts no clocks (43 R240). -/
def prescaleList : List Nat := [0, 4, 10, 16, 50, 64, 100, 200]

/-- A byte read of the timer window at an offset, as 43 R247 tables it (the offsets of 10 R30). -/
def mfpByteAt (gpipIn : Byte) (m : Mfp) (off : Nat) : Byte :=
  match off with
  | 0x01 => (m.gpip &&& m.ddr) ||| (gpipIn &&& ~~~m.ddr)
  | 0x03 => m.aer
  | 0x05 => m.ddr
  | 0x07 => m.iera
  | 0x09 => m.ierb
  | 0x0B => m.ipra
  | 0x0D => m.iprb
  | 0x0F => m.isra
  | 0x11 => m.isrb
  | 0x13 => m.imra
  | 0x15 => m.imrb
  | 0x17 => m.vr
  | 0x19 => m.tacr
  | 0x1B => m.tbcr
  | 0x1D => m.tcdcr
  | 0x1F => BitVec.ofNat 8 m.cnt.a
  | 0x21 => BitVec.ofNat 8 m.cnt.b
  | 0x23 => BitVec.ofNat 8 m.cnt.c
  | 0x25 => BitVec.ofNat 8 m.cnt.d
  | 0x27 => m.scr
  | 0x29 => m.ucr
  | 0x2B => m.rsr
  | 0x2D => m.tsr
  | 0x2F => m.udr
  | _ => 0xFF

/-- A byte read of the DMA window at an offset, as 44 R303 tables it. -/
def dmaByteAt (d : Dma) (off : Nat) : Byte :=
  match off with
  | 0x01 => (0 : BitVec 6) ++ d.ctrl
  | 0x03 => (0 : BitVec 2) ++ d.frameStart.extractLsb' 16 6
  | 0x05 => d.frameStart.extractLsb' 8 8
  | 0x07 => d.frameStart.extractLsb' 0 8
  | 0x09 => (0 : BitVec 2) ++ d.ptr.extractLsb' 16 6
  | 0x0B => d.ptr.extractLsb' 8 8
  | 0x0D => d.ptr.extractLsb' 0 8
  | 0x0F => (0 : BitVec 2) ++ d.frameEnd.extractLsb' 16 6
  | 0x11 => d.frameEnd.extractLsb' 8 8
  | 0x13 => d.frameEnd.extractLsb' 0 8
  | 0x21 => d.mode
  | 0x22 => d.mwData.extractLsb' 8 8
  | 0x23 => d.mwData.extractLsb' 0 8
  | 0x24 => d.mwMask.extractLsb' 8 8
  | 0x25 => d.mwMask.extractLsb' 0 8
  | _ => 0xFF

/-- The vector addresses of 43 R264. -/
def vectorTable : Timer → Nat
  | .a => 0x000134
  | .b => 0x000120
  | .c => 0x000114
  | .d => 0x000110

/-- The commands a machine refuses before its first Startup (70 R440): every command but Startup and Load. -/
def needsStartup : Instr → Bool
  | .cmdGetSubsongInfo _ | .cmdInitSubSong _ | .cmdAudioRender _ | .cmdRunUntilReturn => true
  | .cmdComputeNextSample | .cmdPsgWriteRegister _ _ | .cmdPsgTick | .cmdPsgComputeNextSample => true
  | .cmdPsgInsideTimerIrq _ | .cmdPsgReset | .cmdTimerTick _ | .cmdTimerReset => true
  | .cmdTimerAcknowledge _ | .cmdTimerEvent _ | .cmdDmaComputeNextSample | .cmdDmaReset => true
  | _ => false

/-- The callbacks of the CPU core (30 R113). -/
def isCallback : Instr → Bool
  | .cbReset _ | .cbIllegal _ | .cbGemdos _ => true
  | _ => false

/-! ## The end of a run, and the timers of a sample -/

/-- The return of the CPU agent ends the run: a condition stands, or the cycles of the last slice are used
(45 R342). -/
def State.runEnds (s : State) (cycles : Nat) : Prop :=
  s.exit ≠ .none ∨ (160000 ≤ cycles ∧ s.run.framesLeft ≤ 1)

/-- What the end of a run leaves to its caller: `busy` has fallen, and a fatal exit is the session's fault
(45 R340, 60 R402). -/
def State.runEnded (s : State) : State :=
  if s.exit = .none ∨ s.exit = .sentinel then { s with busy := false, run := ⟨.host, 0⟩ }
  else { s with
    busy := false, run := ⟨.host, 0⟩, sessionFault := true, faultCode := s.exit, faultInfo := s.exitInfo }

/-- The state after a list of timers has been ticked, in its order (45 R360). -/
def State.ticked (s : State) (l : List Timer) : State :=
  { s with mfp := l.foldl (fun m t => m.tick s.hostRate t) s.mfp }

/-- `Signal(t)` of 43 R262: pending, unmasked, and not gated by a channel in service. -/
def State.fires (s : State) (t : Timer) : Prop :=
  s.mfp.ipr.getLsbD (channel t) = true ∧ s.mfp.imr.getLsbD (channel t) = true ∧
    (s.params.isrGating = true → s.mfp.isr.toNat / 2 ^ channel t = 0)

/-- None of the timers signals when they are ticked in their order. -/
def State.quiet (s : State) (l : List Timer) : Prop :=
  ∀ (pre post : List Timer) (t : Timer), l = pre ++ t :: post → ¬ (s.ticked (pre ++ [t])).fires t

/-- The result of a failed call: the session's fault if there is one, else a timeout (45 R374, 60 R403). -/
def State.failResult (s : State) : Result :=
  if s.sessionFault = true then .failFatal s.faultCode s.faultInfo else .failTimeout

/-- The debug composite of 42 R207. -/
def debugComposite (l : PerVoice (BitVec 5)) : Long :=
  BitVec.ofNat 32 (l.a.toNat + 2 ^ 8 * l.b.toNat + 2 ^ 16 * l.c.toNat)

/-- RAM is in canonical form (log 18). -/
def State.MemoryInv (s : State) : Prop := s.mem.wf = true

/-! ## The render loop (45 R374) -/

/-- The host's sample of a state: its PSG and its DMA sample, added and clamped (45 R360). -/
def State.sampleValue (s : State) : Int :=
  min 32767 (max (-32768) ((s.psg.sample Config.tables s.params s.hostRate).2 +
    (dmaSample s.hostRate s.mem s.dma s.mfp).2))

/-- The state that has produced that sample and ticked no timer yet (45 R360). -/
def State.sampleMade (s : State) : State :=
  { s with
    psg := (s.psg.sample Config.tables s.params s.hostRate).1
    dma := (dmaSample s.hostRate s.mem s.dma s.mfp).1.1
    mfp := (dmaSample s.hostRate s.mem s.dma s.mfp).1.2 }

/-- A turn of the loop in which no timer signals: the sample in the buffer, its debug word if asked for
(42 R207), the four timers ticked, and the tick accumulator advanced. -/
def State.quietTurn (debug : Bool) (s : State) : State :=
  let u := s.sampleMade.ticked [.a, .b, .c, .d]
  { u with
    seq := { u.seq with tickAcc := u.seq.tickAcc + u.seq.tickRate }
    out := { u.out with
      buf := u.out.buf ++ [s.sampleValue]
      dbg := u.out.dbg ++ (if debug = true then [debugComposite u.psg.voiceLvl] else []) } }

/-- The state after k such turns. -/
def State.afterTurns (s : State) (debug : Bool) (k : Nat) : State := times (State.quietTurn debug) k s

/-- The next k turns need no CPU: nothing has failed, no play call is due, and no timer signals. -/
def State.quietTurns (s : State) (debug : Bool) (k : Nat) : Prop :=
  ∀ j, j < k → let u := s.afterTurns debug j
    u.sessionFault = false ∧ u.irqFailed = false ∧ u.seq.tickAcc < u.hostRate ∧ u.sampleMade.quiet [.a, .b, .c, .d]

/-- From `s`, the play call of a render has been started (45 R373, R374): the tick accumulator lowered by
one tick, and play run at `LOAD_ADDR + 8` for `max(1, ceil(50 / tickRate))` slices. RAM has the frame and the
reset vector of the run, and is otherwise as it was. -/
structure PlayStarted (s t : State) (r : Render) : Prop where
  busy   : t.busy = true
  exit   : t.exit = .none
  seq    : t.seq = { s.seq with tickAcc := s.seq.tickAcc - s.hostRate }
  caller : t.run.caller = .play r
  slices : 1 ≤ t.run.framesLeft ∧ (50 ≤ s.seq.tickRate → t.run.framesLeft = 1) ∧
    (t.run.framesLeft - 1) * s.seq.tickRate < 50 ∧ 50 ≤ t.run.framesLeft * s.seq.tickRate
  cpu    : t.cpu = ⟨0xFFFC, 0x10008, 0x2700, none⟩
  mem    : t.mem.read32 0 = 0xFFFC ∧ t.mem.read32 4 = 0x10008 ∧ t.mem.read32 0xFFFC = 0x500 ∧
    ∀ a, 8 ≤ a → (a < 0xFFFC ∨ 0x10000 ≤ a) → t.mem.read a = s.mem.read a
  units  : t.psg = s.psg ∧ t.mfp = s.mfp ∧ t.dma = s.dma
  rest   : t.irqFailed = s.irqFailed ∧ t.sessionFault = s.sessionFault ∧ t.hostRate = s.hostRate ∧
    t.out.buf = s.out.buf ∧ t.out.dbg = s.out.dbg

/-- A render with k samples to go needs no CPU: nothing has failed, every interrupt is masked, and no play
call comes due among them (45 R374). -/
def State.undisturbed (s : State) (k : Nat) : Prop :=
  s.sessionFault = false ∧ s.irqFailed = false ∧ s.mfp.imra = 0 ∧ s.mfp.imrb = 0 ∧
    s.seq.tickAcc + (k - 1) * s.seq.tickRate < s.hostRate

/-- From `s`, the render has been brought to its end without the CPU (45 R374): the sample of the state after
each turn stands in the buffer, a debug word for each if asked for (42 R207), the units are those after that
many turns, and the tick accumulator has advanced for each. -/
structure RenderDone (s t : State) (r : Render) : Prop where
  result  : t.out.result = .ok ∧ t.out.value = .written r.total
  samples : ∃ xs : List Int, t.out.buf = s.out.buf ++ xs ∧ xs.length = r.total - r.done ∧
    (∀ x ∈ xs, -32768 ≤ x ∧ x ≤ 32767) ∧
    xs = (List.range (r.total - r.done)).map fun k => (s.afterTurns r.debug k).sampleValue
  words   : t.out.dbg = s.out.dbg ++ (if r.debug = true then
    (List.range (r.total - r.done)).map fun k => debugComposite
      (times (fun p => (p.sample Config.tables s.params s.hostRate).1) (k + 1) s.psg).voiceLvl
    else [])
  units   : t.psg = (s.afterTurns r.debug (r.total - r.done)).psg ∧
    t.dma = (s.afterTurns r.debug (r.total - r.done)).dma ∧ t.mfp = (s.afterTurns r.debug (r.total - r.done)).mfp
  frame   : t.busy = s.busy ∧ t.mem = s.mem ∧ t.cpu = s.cpu ∧ t.psg.regs = s.psg.regs ∧ t.irqFailed = false
  tick    : t.seq = { s.seq with tickAcc := s.seq.tickAcc + (r.total - r.done) * s.seq.tickRate }

/-- From `s`, at the head of the loop, the render goes on to `t` in the same step (45 R374). After a number of
quiet turns it is whole; or a play call is due and is started; or a timer of the next sample signals, and the
first that does is dispatched, the sample and the render kept for its return. -/
structure RenderGoesOn (s t : State) (r : Render) : Prop where
  whole : s.quietTurns r.debug (r.total - r.done) →
    t = (s.afterTurns r.debug (r.total - r.done)).answer .ok (.written (r.done + (r.total - r.done)))
  play : ∀ k, r.done + k < r.total → s.quietTurns r.debug k → let u := s.afterTurns r.debug k
    u.MemoryInv → u.hostRate ≤ u.seq.tickAcc → 1 ≤ u.seq.tickRate → PlayStarted u t { r with done := r.done + k }
  fires : ∀ k, r.done + k < r.total → s.quietTurns r.debug k → let u := s.afterTurns r.debug k
    u.sessionFault = false → u.seq.tickAcc < u.hostRate →
    ∀ (pre post : List Timer) (x : Timer), [Timer.a, .b, .c, .d] = pre ++ x :: post → u.sampleMade.quiet pre →
      (u.sampleMade.ticked (pre ++ [x])).fires x →
      t = (u.sampleMade.ticked (pre ++ [x])).dispatch x (.irq post u.sampleValue (some { r with done := r.done + k }))
  undisturbed : r.done < r.total → s.undisturbed (r.total - r.done) → RenderDone s t r

/-! ## Invariants -/

/-- The PSG (10 R22 to R27, 41 R162, R164, 42 R201): stored values fit their masks, the periods and the
envelope table are functions of the registers, the counters stay inside their ranges, the shift
register is never 0, and the DC sum is the sum of the history. -/
structure Psg.Inv (rate : Nat) (p : Psg) : Prop where
  regs        : ∀ i : Fin 14, p.regs[i] &&& psgMask i = p.regs[i]
  tonePeriod  : ∀ v, p.tonePeriod.get v = tonePeriodOf p.regs v
  noisePeriod : p.noisePeriod = noisePeriodOf p.regs
  envPeriod   : p.envPeriod = envPeriodOf p.regs
  envTab      : p.envTab = envSel ((p.regs[(13 : Fin 14)]).extractLsb' 0 4)
  toneCnt     : ∀ v, (p.toneCnt.get v).toNat < 4096
  noiseCnt    : p.noiseCnt.toNat < 32
  envCnt      : p.envCnt.toNat < 65535
  lfsr        : p.lfsr ≠ 0
  noiseBit    : p.noiseBit = p.lfsr.getLsbD 0
  envPos      : -32 ≤ p.envPos ∧ p.envPos ≤ 31
  envAlt      : p.envAlt = true → p.envTab = 4 ∨ p.envTab = 8
  needReset   : ∀ v, p.needReset.get v = true → p.inside = true
  psgAcc      : p.psgAcc < rate
  level       : p.level.toNat ≤ Config.psgCeiling
  dcLength    : p.dcHist.length = Config.dcLen
  dcBound     : ∀ x ∈ p.dcHist, x.toNat ≤ Config.psgCeiling
  dcSum       : p.dcSum = (p.dcHist.map BitVec.toNat).sum

/-- The timer unit (10 R30, R31, 43 R244, R250, R254, R263): reserved bits read 0, nothing pends that is
not enabled, only the four timer channels pend or are in service, nothing is in service while
`VR[3]` = 0, the counters lie in 1..256, and the prescale phase of a delay-mode timer is less than one
count. -/
structure Mfp.Inv (rate : Nat) (m : Mfp) : Prop where
  tacr    : m.tacr &&& 0xF0 = 0
  tbcr    : m.tbcr &&& 0xF0 = 0
  tcdcr   : m.tcdcr &&& 0x88 = 0
  vr      : m.vr &&& 0x07 = 0
  enabledA : m.ipra &&& ~~~m.iera = 0
  enabledB : m.iprb &&& ~~~m.ierb = 0
  pendingA : m.ipra &&& 0xDE = 0
  pendingB : m.iprb &&& 0xCF = 0
  serviceA : m.isra &&& 0xDE = 0
  serviceB : m.isrb &&& 0xCF = 0
  endOfInterrupt : m.vr.getLsbD 3 = false → m.isra = 0 ∧ m.isrb = 0
  cnt     : ∀ t, 1 ≤ m.cnt.get t ∧ m.cnt.get t ≤ 256
  tacc    : ∀ t, m.prescale t ≠ 0 → m.tacc.get t < m.prescale t * rate

/-- The DMA unit (10 R40, 30 R110, 44 R310, R312): frame bounds are even, the mode's reserved bits read
0, less than one host sample of time is carried, and a playing unit fetches inside RAM. -/
structure Dma.Inv (rate : Nat) (d : Dma) : Prop where
  frameStart : d.frameStart.getLsbD 0 = false
  frameEnd   : d.frameEnd.getLsbD 0 = false
  curStart   : d.curStart.getLsbD 0 = false
  curEnd     : d.curEnd.getLsbD 0 = false
  mode       : d.mode &&& 0x7C = 0
  dacc       : d.dacc < rate
  ptr        : d.ptr.toNat ≤ Config.ramSize
  inRam      : d.playing = true → d.ptr.toNat + 1 < Config.ramSize

/-- The bound R6 sets on the sample rate (00 R6), which Startup checks (45 R331). -/
def State.RateInv (s : State) : Prop := 1 ≤ s.hostRate ∧ s.hostRate ≤ Config.fInt

def State.PsgInv (s : State) : Prop := s.RateInv ∧ s.psg.Inv s.hostRate
def State.MfpInv (s : State) : Prop := s.RateInv ∧ s.mfp.Inv s.hostRate
def State.DmaInv (s : State) : Prop := s.RateInv ∧ s.dma.Inv s.hostRate

/-- The bump pointer stays a multiple of 4 between its base and the end of RAM (45 R351). -/
def State.BumpInv (s : State) : Prop :=
  Config.bumpBase ≤ s.bump.toNat ∧ s.bump.toNat ≤ Config.ramSize ∧ s.bump.toNat % 4 = 0

/-- A session fault is kept with the fatal exit that set it, and there is none without one (60 R402). -/
def State.FaultInv (s : State) : Prop :=
  s.sessionFault = s.faultCode.fatal ∧ (s.sessionFault = false → s.faultCode = .none)

/-- The sequencer's ranges (10 R46, 45 R370): a loaded module has 1 to 128 subsongs, a duration for each,
and a tick rate of at least 1. -/
def State.LoadedInv (s : State) : Prop :=
  s.seq.loaded = true →
    1 ≤ s.seq.subsongCount ∧ s.seq.subsongCount ≤ 128 ∧ s.seq.duration.length = s.seq.subsongCount
      ∧ 1 ≤ s.seq.tickRate

end Sys2Proof.Machine
end

