-- ==== Sys2Proof/Certificates/Slice0/Obligations.lean ====
section
/-! DEFINITION. The statements for the provers, by part of the spec: encoding, the bus, the PSG, the timer
unit, the DMA unit, the machine driver, and what every step keeps. -/

open Sys2Proof Sys2Proof.Machine

/-! ## Encoding (30_encoding) -/

/-- Words of the V-ENC vectors of 95_test_vectors decode to the rows named there. -/
def Obligations.DecodeTableExamples : Prop :=
  decode 0x40FF880000000007 = .ok (.psgSelectB 0x00 0x07) ∧
  decode 0x5000100000001234 = .ok (.ramWrW 0x001000 0x1234) ∧
  decode 0x10FFFA1E00000000 = .ok (.mfpRdW 0x1E) ∧
  decode 0x60FF88000700FF00 = .ok (.busWrL 0xFF8800 0x0700FF00) ∧
  decode 0x40FFFA1900000007 = .ok (.mfpWrTacr 0x07) ∧
  decode 0x40FF890100000001 = .ok (.dmaWrCtrl 0x01) ∧
  decode 0x4100000000000000 = .ok (.addrviolA24 (.writeByte 0x00) 0x1000000) ∧
  decode 0x0040000000000000 = .ok (.unmappedRd .byte 0x400000) ∧
  decode 0x8010000000000D0A = .ok (.cmdPsgWriteRegister 0x0D 0x0A) ∧
  decode 0xC001000000000500 = .ok (.cbReset 0x000500)

/-- A step performs the next transaction word: it is `exec` of what the word decodes to, on the state
with the word taken off the inputs. A word of the CPU agent's, bus or trap, is performed so while a bounded
execution is in progress and refused outside one (R343). Inputs are the model's form (log 1, log 9), and so
is the agent's return, refused outside an execution too (log 8). -/
def Obligations.StepPerformsDecodedWord : Prop :=
  ∀ (s : State) (w : TxWord) (rest : List Input),
    (∀ i : Instr, decode w = .ok i →
      (s.inputs = .word w :: rest → step s = exec i { s with inputs := rest }) ∧
      (s.inputs = .agentWord w :: rest → s.busy = true → step s = exec i { s with inputs := rest })) ∧
    (s.busy = false →
      (s.inputs = .agentWord w :: rest → step s = .refused .callbackOutsideRun) ∧
      (∀ c : Nat, s.inputs = .agentReturn c :: rest → step s = .refused .agentOutsideRun))

/-- Every well-formed instruction is read back from its word, operands and all (R100 to R114). -/
def Obligations.DecodeEncodeRoundTrip : Prop :=
  ∀ i : Instr, i.wf = true → decode (encode i) = .ok i

/-- The decoder yields well-formed instructions only: rows in their regions, words and longs aligned. -/
def Obligations.DecodeYieldsWellFormed : Prop :=
  ∀ (w : TxWord) (i : Instr), decode w = .ok i → i.wf = true

/-- R114, R80: the words the decoder rejects are exactly the `Reserved` ones, a word or long at an odd
address among them, and a step refuses them; a byte transaction may stand at any address. -/
def Obligations.ReservedWordsHaveNoStep : Prop :=
  ∀ (s : State) (w : TxWord) (rest : List Input),
    ((∃ e, decode w = .error e) ↔ Reserved w) ∧
    (s.inputs = .word w :: rest → Reserved w → step s = .refused .reservedWord) ∧
    (∀ (cls sz : BitVec 2) (addr : WideAddr) (data : Long), cls = 0 ∨ cls = 1 →
      ((sz = 1 ∨ sz = 2) → addr.getLsbD 0 = true → Reserved (busWord cls sz addr data)) ∧
      (sz = 0 → ¬ Reserved (busWord cls sz addr data)))

/-! ## The bus (20_memory) -/

/-- R74, R75: a byte read below bit 24, and a word read at an even address, by address. RAM is composed
big-endian; an address outside every region reads all ones. -/
def Obligations.ReadsByAddress : Prop :=
  ∀ (s : State) (a : Addr) (d : Long),
    performWord (busWord 0 0 (a.setWidth 28) d) s = .next { s with out := { s.out with bus := .byte (
      if a.toNat < 0x400000 then s.mem.read a.toNat
      else if 0xFF8800 ≤ a.toNat ∧ a.toNat ≤ 0xFF88FF then s.psg.read8 (BitVec.ofNat 8 (a.toNat - 0xFF8800))
      else if 0xFF8900 ≤ a.toNat ∧ a.toNat ≤ 0xFF893F then s.dma.read8 (BitVec.ofNat 6 (a.toNat - 0xFF8900))
      else if 0xFFFA00 ≤ a.toNat ∧ a.toNat ≤ 0xFFFA3F then
        Mfp.read8 s.params.gpipIn s.mfp (BitVec.ofNat 6 (a.toNat - 0xFFFA00))
      else 0xFF) } } ∧
    (a.getLsbD 0 = false →
    performWord (busWord 0 1 (a.setWidth 28) d) s = .next { s with out := { s.out with bus := .word (
      if a.toNat < 0x400000 then s.mem.read a.toNat ++ s.mem.read (a.toNat + 1)
      else if 0xFF8800 ≤ a.toNat ∧ a.toNat ≤ 0xFF88FF then s.psg.read16 (BitVec.ofNat 8 (a.toNat - 0xFF8800))
      else if 0xFF8900 ≤ a.toNat ∧ a.toNat ≤ 0xFF893F then s.dma.read16 (BitVec.ofNat 6 (a.toNat - 0xFF8900))
      else if 0xFFFA00 ≤ a.toNat ∧ a.toNat ≤ 0xFFFA3F then
        Mfp.read16 s.params.gpipIn s.mfp (BitVec.ofNat 6 (a.toNat - 0xFFFA00))
      else 0xFFFF) } })

/-- R77: byte and word writes, by address. A word write to RAM stores the high byte at the lower address. -/
def Obligations.WritesByAddress : Prop :=
  ∀ (s : State) (a : Addr) (d : Long),
    (performWord (busWord 1 0 (a.setWidth 28) d) s = .next (
      if a.toNat < 0x400000 then { s with mem := s.mem.write a.toNat (d.extractLsb' 0 8) }
      else if 0xFF8800 ≤ a.toNat ∧ a.toNat ≤ 0xFF88FF then
        { s with psg := s.psg.write8 (BitVec.ofNat 8 (a.toNat - 0xFF8800)) (d.extractLsb' 0 8) }
      else if 0xFF8900 ≤ a.toNat ∧ a.toNat ≤ 0xFF893F then
        { s with dma := s.dma.write8 (BitVec.ofNat 6 (a.toNat - 0xFF8900)) (d.extractLsb' 0 8) }
      else if 0xFFFA00 ≤ a.toNat ∧ a.toNat ≤ 0xFFFA3F then
        { s with mfp := s.mfp.write8 (BitVec.ofNat 6 (a.toNat - 0xFFFA00)) (d.extractLsb' 0 8) }
      else s)) ∧
    (a.getLsbD 0 = false → performWord (busWord 1 1 (a.setWidth 28) d) s = .next (
      if a.toNat < 0x400000 then
        { s with mem := (s.mem.write a.toNat (d.extractLsb' 8 8)).write (a.toNat + 1) (d.extractLsb' 0 8) }
      else if 0xFF8800 ≤ a.toNat ∧ a.toNat ≤ 0xFF88FF then
        { s with psg := s.psg.write8 (BitVec.ofNat 8 (a.toNat - 0xFF8800)) (d.extractLsb' 8 8) }
      else if 0xFF8900 ≤ a.toNat ∧ a.toNat ≤ 0xFF893F then
        { s with dma := s.dma.write16 (BitVec.ofNat 6 (a.toNat - 0xFF8900)) (d.extractLsb' 0 16) }
      else if 0xFFFA00 ≤ a.toNat ∧ a.toNat ≤ 0xFFFA3F then
        { s with mfp := s.mfp.write16 (BitVec.ofNat 6 (a.toNat - 0xFFFA00)) (d.extractLsb' 0 16) }
      else s))

/-- R78, R79: a long access is two word accesses, first at a with bits 31..16, then at a + 2 with bits
15..0, each through the row its own address decodes to. The width check covers a + 2 too, before either
half is performed; the info kept is the address of the offending half (log 12, the model's choice). -/
def Obligations.LongAccessIsTwoWordAccesses : Prop :=
  ∀ (s : State) (a : Addr) (v : Long),
    (a.getLsbD 0 = false → a.toNat + 2 < 2 ^ 24 →
      (∃ (i j : Instr) (hi lo : Half),
        decode (busWord 0 1 (a.setWidth 28) 0) = .ok i ∧ decode (busWord 0 1 ((a + 2).setWidth 28) 0) = .ok j ∧
        exec i s = .next { s with out := { s.out with bus := .word hi } } ∧
        exec j s = .next { s with out := { s.out with bus := .word lo } } ∧
        exec (.busRdL a) s = .next { s with out := { s.out with bus := .long (hi ++ lo) } }) ∧
      (∃ (i j : Instr) (u t : State),
        decode (busWord 1 1 (a.setWidth 28) (v >>> 16)) = .ok i ∧
        decode (busWord 1 1 ((a + 2).setWidth 28) v) = .ok j ∧
        exec i s = .next u ∧ exec j u = .next t ∧ exec (.busWrL a v) s = .next t)) ∧
    (s.exit = .none →
      exec (.busRdL 0xFFFFFE) s = .next { s with
        exit := .addressViolation, exitInfo := 0x1000000, out := { s.out with bus := .long 0xFFFFFFFF } } ∧
      exec (.busWrL 0xFFFFFE v) s = .next { s with exit := .addressViolation, exitInfo := 0x1000000 })

/-- R79, R400, R401: an address with bit 24, 25, 26 or 27 set raises `AddressViolation(addr)`, keeps an
earlier condition, changes no memory or device state, and answers a read with all ones. -/
def Obligations.AddressViolationRows : Prop :=
  ∀ (s : State) (op : BusOp) (addr : WideAddr),
    let t : State := { s with
      exit := if s.exit = .none then .addressViolation else s.exit
      exitInfo := if s.exit = .none then addr.setWidth 32 else s.exitInfo
      out := { s.out with bus := match op with
        | .readByte => .byte 0xFF
        | .readWord => .word 0xFFFF
        | .readLong => .long 0xFFFFFFFF
        | .writeByte _ | .writeWord _ | .writeLong _ => s.out.bus } }
    exec (.addrviolA24 op addr) s = .next t ∧ exec (.addrviolA25 op addr) s = .next t ∧
    exec (.addrviolA26 op addr) s = .next t ∧ exec (.addrviolA27 op addr) s = .next t ∧
    (op.alignedAt addr = true → addr.extractLsb' 24 4 ≠ 0 → performWord (encodeBus op addr) s = .next t)

/-- R76: below bit 24 and outside every region, a read returns all ones at its width and a write changes
nothing; no exit condition is raised. -/
def Obligations.UnmappedAccesses : Prop :=
  ∀ (s : State) (a : Addr) (v : Byte) (w : Half) (d : Long),
    let gap : Nat → Prop := fun x =>
      (0x400000 ≤ x ∧ x ≤ 0xFF87FF) ∨ (0xFF8940 ≤ x ∧ x ≤ 0xFFF9FF) ∨ (0xFFFA40 ≤ x ∧ x ≤ 0xFFFFFF)
    exec (.unmappedRd .byte a) s = .next { s with out := { s.out with bus := .byte 0xFF } } ∧
    exec (.unmappedRd .word a) s = .next { s with out := { s.out with bus := .word 0xFFFF } } ∧
    exec (.unmappedWr (.byte v) a) s = .next s ∧ exec (.unmappedWr (.word w) a) s = .next s ∧
    (gap a.toNat →
      decode (busWord 0 0 (a.setWidth 28) d) = .ok (.unmappedRd .byte a) ∧
      decode (busWord 1 0 (a.setWidth 28) d) = .ok (.unmappedWr (.byte (d.extractLsb' 0 8)) a)) ∧
    (gap a.toNat → a.getLsbD 0 = false →
      decode (busWord 0 1 (a.setWidth 28) d) = .ok (.unmappedRd .word a) ∧
      decode (busWord 1 1 (a.setWidth 28) d) = .ok (.unmappedWr (.word (d.extractLsb' 0 16)) a)) ∧
    (gap a.toNat → gap (a.toNat + 2) → a.getLsbD 0 = false →
      exec (.busRdL a) s = .next { s with out := { s.out with bus := .long 0xFFFFFFFF } } ∧
      exec (.busWrL a d) s = .next s)

/-- R83: a bus read changes no state; only the answer is new. -/
def Obligations.BusReadsChangeNothing : Prop :=
  ∀ (s : State) (i : Instr), isBusRead i = true →
    ∃ b : BusData, exec i s = .next { s with out := { s.out with bus := b } }

/-- R71, R74, R75, R77: what is written to RAM is read back, the most significant byte at the lowest
address, and no other byte and no other part of the state changes. A long write stores inside the four
bytes at its address and nowhere else, whatever regions it straddles. -/
def Obligations.RamStoresReadBack : Prop :=
  ∀ (s : State) (x : BitVec 22) (v : Byte) (w : Half), s.MemoryInv →
    (∃ m : Memory, exec (.ramWrB x v) s = .next { s with mem := m } ∧
      exec (.ramRdB x) { s with mem := m } = .next { s with mem := m, out := { s.out with bus := .byte v } } ∧
      ∀ b, b ≠ x.toNat → m.read b = s.mem.read b) ∧
    (x.getLsbD 0 = false → ∃ m : Memory, exec (.ramWrW x w) s = .next { s with mem := m } ∧
      exec (.ramRdW x) { s with mem := m } = .next { s with mem := m, out := { s.out with bus := .word w } } ∧
      m.read x.toNat = w.extractLsb' 8 8 ∧ m.read (x.toNat + 1) = w.extractLsb' 0 8 ∧
      ∀ b, b ≠ x.toNat → b ≠ x.toNat + 1 → m.read b = s.mem.read b) ∧
    (∀ (a : Addr) (d : Long) (t : State), a.getLsbD 0 = false → exec (.busWrL a d) s = .next t →
      (∀ b, (b < a.toNat ∨ a.toNat + 4 ≤ b) → t.mem.read b = s.mem.read b) ∧
      (a.toNat + 2 < 2 ^ 24 → t.exit = s.exit ∧ t.exitInfo = s.exitInfo) ∧
      t.params = s.params ∧ t.started = s.started ∧ t.hostRate = s.hostRate ∧ t.bump = s.bump ∧ t.busy = s.busy ∧
      t.irqFailed = s.irqFailed ∧ t.sessionFault = s.sessionFault ∧ t.faultCode = s.faultCode ∧
      t.faultInfo = s.faultInfo ∧ t.seq = s.seq ∧ t.cpu = s.cpu ∧ t.run = s.run ∧ t.oob = s.oob ∧
      t.inputs = s.inputs ∧ t.out = s.out)

/-! ## PSG registers (40_psg_registers) -/

/-- R130, R131, R132: a select write stores its byte unmasked in `sel`, from either lane and either width.
A data write is the register write of the selected register, and nothing when the select latch holds
14 or more; `sel` stays. -/
def Obligations.PsgPortWrites : Prop :=
  ∀ (s : State) (off b : Byte),
    exec (.psgSelectB off b) s = .next { s with psg := { s.psg with sel := b } } ∧
    exec (.psgSelectW off b) s = .next { s with psg := { s.psg with sel := b } } ∧
    (off.getLsbD 1 = false →
      decode (busWord 1 0 (BitVec.ofNat 28 (0xFF8800 + off.toNat)) (b.setWidth 32)) = .ok (.psgSelectB off b)) ∧
    (off.getLsbD 1 = false → off.getLsbD 0 = false → ∀ low : Byte,
      decode (busWord 1 1 (BitVec.ofNat 28 (0xFF8800 + off.toNat)) ((b ++ low).setWidth 32)) = .ok (.psgSelectW off b)) ∧
    (off.getLsbD 1 = true →
      decode (busWord 1 0 (BitVec.ofNat 28 (0xFF8800 + off.toNat)) (b.setWidth 32)) = .ok (.psgDataB off b)) ∧
    (off.getLsbD 1 = true → off.getLsbD 0 = false → ∀ low : Byte,
      decode (busWord 1 1 (BitVec.ofNat 28 (0xFF8800 + off.toNat)) ((b ++ low).setWidth 32)) = .ok (.psgDataW off b)) ∧
    (14 ≤ s.psg.sel.toNat → exec (.psgDataB off b) s = .next s ∧ exec (.psgDataW off b) s = .next s) ∧
    (∀ i : Fin 14, s.psg.sel.toNat = i.val →
      exec (.psgDataB off b) s = .next { s with psg := s.psg.writeReg i b } ∧
      exec (.psgDataW off b) s = .next { s with psg := s.psg.writeReg i b }) ∧
    (s.psg.writeRegister s.psg.sel b).sel = s.psg.sel

/-- R131, R133: the port reads the selected register on the even lane of the select port, and all ones
on the odd lane, on the data port, and while no register is selected. -/
def Obligations.PsgReadPort : Prop :=
  ∀ (s : State) (off : Byte),
    (∀ i : Fin 14, s.psg.sel.toNat = i.val → off.getLsbD 1 = false → off.getLsbD 0 = false →
      exec (.psgReadB off) s = .next { s with out := { s.out with bus := .byte s.psg.regs[i] } } ∧
      exec (.psgReadW off) s = .next { s with out := { s.out with bus := .word (s.psg.regs[i] ++ (0xFF : Byte)) } }) ∧
    ((14 ≤ s.psg.sel.toNat ∨ off.getLsbD 1 = true ∨ off.getLsbD 0 = true) →
      exec (.psgReadB off) s = .next { s with out := { s.out with bus := .byte 0xFF } } ∧
      exec (.psgReadW off) s = .next { s with out := { s.out with bus := .word 0xFFFF } })

/-- R134 to R139: `WriteRegister` is the register write whose derived state `WriteRegisterDerivedState`
states, for exec. It stores the value under the register's mask and does nothing for an index of 14 or
more. No counter, edge, noise, level or DC state changes; only index 13 touches the envelope's table,
position and mirror bit, and only a tone register the reset flags. A mixer or volume write only stores. -/
def Obligations.WriteRegisterStoresMasked : Prop :=
  ∀ (s : State) (index value : Byte), s.ready →
    (14 ≤ index.toNat → exec (.cmdPsgWriteRegister index value) s = .next (s.answer .ok .none)) ∧
    (∀ i : Fin 14, index.toNat = i.val →
      let p := s.psg.writeReg i value
      exec (.cmdPsgWriteRegister index value) s = .next ({ s with psg := p }.answer .ok .none) ∧
      (∀ j : Fin 14, p.regs[j] = if j = i then value &&& maskList.getD i.val 0 else s.psg.regs[j]) ∧
      p.sel = s.psg.sel ∧ p.toneCnt = s.psg.toneCnt ∧ p.edge = s.psg.edge ∧ p.noiseCnt = s.psg.noiseCnt ∧
      p.lfsr = s.psg.lfsr ∧ p.noiseBit = s.psg.noiseBit ∧ p.envCnt = s.psg.envCnt ∧ p.half = s.psg.half ∧
      p.inside = s.psg.inside ∧ p.psgAcc = s.psg.psgAcc ∧ p.level = s.psg.level ∧ p.dcHist = s.psg.dcHist ∧
      p.dcSum = s.psg.dcSum ∧ p.dcIdx = s.psg.dcIdx ∧ p.voiceLvl = s.psg.voiceLvl ∧
      (6 ≤ i.val → p.tonePeriod = s.psg.tonePeriod ∧ p.needReset = s.psg.needReset) ∧
      (i ≠ 6 → p.noisePeriod = s.psg.noisePeriod) ∧ (i ≠ 11 → i ≠ 12 → p.envPeriod = s.psg.envPeriod) ∧
      (i ≠ 13 → p.envTab = s.psg.envTab ∧ p.envPos = s.psg.envPos ∧ p.envAlt = s.psg.envAlt) ∧
      (i = 13 → p.envTab = envSel (value.extractLsb' 0 4) ∧ p.envPos = -32 ∧ p.envAlt = false) ∧
      (7 ≤ i.val → i.val ≤ 10 → p = { s.psg with regs := p.regs }))

/-- R135, R136, R137: what a register write does to the derived state. A tone register recomputes its
voice's period, and inside a nested call a period of at most 1 asks for an edge reset; register 6 the
noise period; 11 and 12 the envelope period; 13 selects the table and re-primes the envelope. No counter
and not `half` changes. -/
def Obligations.WriteRegisterDerivedState : Prop :=
  ∀ (p : Psg) (i : Fin 14) (value : Byte),
    let q := p.writeReg i value
    q.toneCnt = p.toneCnt ∧ q.noiseCnt = p.noiseCnt ∧ q.envCnt = p.envCnt ∧ q.half = p.half ∧
    (∀ (v : Voice) (k : Nat), (v = .a ∧ k = 0) ∨ (v = .b ∧ k = 1) ∨ (v = .c ∧ k = 2) →
      (i.val / 2 = k → q.tonePeriod.get v = (q.regs.toArray.getD (2 * k + 1) 0).extractLsb' 0 4 ++ q.regs.toArray.getD (2 * k) 0) ∧
      (i.val / 2 ≠ k → q.tonePeriod.get v = p.tonePeriod.get v) ∧
      q.needReset.get v =
        (if i.val / 2 = k ∧ p.inside = true ∧ (q.tonePeriod.get v).toNat ≤ 1 then true else p.needReset.get v)) ∧
    q.noisePeriod = (if i = 6 then q.regs[(6 : Fin 14)].extractLsb' 0 5 else p.noisePeriod) ∧
    q.envPeriod = (if i = 11 ∨ i = 12 then q.regs[(12 : Fin 14)] ++ q.regs[(11 : Fin 14)] else p.envPeriod) ∧
    (i = 13 → q.envTab = envSel (q.regs[(13 : Fin 14)].extractLsb' 0 4) ∧ q.envPos = -32 ∧ q.envAlt = false) ∧
    (i ≠ 13 → q.envTab = p.envTab ∧ q.envPos = p.envPos ∧ q.envAlt = p.envAlt)

/-- R140, R141: the table of a shape, and its levels: the first pass, then the loop. -/
def Obligations.EnvelopeTableContents : Prop :=
  ∀ (shape : BitVec 4) (k : Nat), k < 32 →
    let e := envSel shape
    e.val = (if shape.toNat < 4 then 0 else if shape.toNat < 8 then 1 else shape.toNat - 6) ∧
    let att : Prop := if shape.toNat < 4 then False else if shape.toNat < 8 then True else shape.getLsbD 2 = true
    (att → (envTable e k).toNat = k) ∧ (¬att → (envTable e k).toNat = 31 - k) ∧
    (envTable e (32 + k)).toNat =
      (if shape.toNat < 8 then 0
      else match shape.toNat with
        | 8 => 31 - k
        | 9 => 0
        | 10 => k
        | 11 => 31
        | 12 => k
        | 13 => 31
        | 14 => 31 - k
        | _ => 0)

/-- R210: leaving a nested call applies each deferred reset once: counter to 0, edge flipped, flag
cleared. Every other transition only stores `inside`. -/
def Obligations.LeavingHandlerResetsEdges : Prop :=
  ∀ (s : State) (flag : Bool), s.ready → ∃ p : Psg,
    exec (.cmdPsgInsideTimerIrq flag) s = .next ({ s with psg := p }.answer .ok .none) ∧
    p = { s.psg with inside := flag, toneCnt := p.toneCnt, edge := p.edge, needReset := p.needReset } ∧
    ∀ v : Voice,
      let resets := s.psg.inside = true ∧ flag = false ∧ s.psg.needReset.get v = true
      p.toneCnt.get v = (if resets then 0 else s.psg.toneCnt.get v) ∧
      p.edge.get v = (if resets then !s.psg.edge.get v else s.psg.edge.get v) ∧
      p.needReset.get v = (if s.psg.inside = true ∧ flag = false then false else s.psg.needReset.get v)

/-! ## PSG generators and output (41, 42) -/

/-- R162, R163, R170: `PSG.Tick` always completes, returns the new level, and changes the generators,
`half`, the level and the voices' levels only. Its tone step: a period of 0 or 1 flips the edge on every
tick. -/
def Obligations.TickToneStep : Prop :=
  ∀ (s : State) (v : Voice), s.ready → ∃ p : Psg,
    exec .cmdPsgTick s = .next ({ s with psg := p }.answer .ok (.level p.level)) ∧
    p = { s.psg with
      toneCnt := p.toneCnt, edge := p.edge, half := !s.psg.half, noiseCnt := p.noiseCnt, lfsr := p.lfsr,
      noiseBit := p.noiseBit, envCnt := p.envCnt, envPos := p.envPos, envAlt := p.envAlt, level := p.level,
      voiceLvl := p.voiceLvl } ∧
    (let c := s.psg.toneCnt.get v + 1
     if max (s.psg.tonePeriod.get v).toNat 1 ≤ c.toNat then
       p.toneCnt.get v = 0 ∧ p.edge.get v = !s.psg.edge.get v
     else p.toneCnt.get v = c ∧ p.edge.get v = s.psg.edge.get v) ∧
    ((s.psg.toneCnt.get v).toNat < 4096 → (s.psg.tonePeriod.get v).toNat ≤ 1 →
      p.toneCnt.get v = 0 ∧ p.edge.get v = !s.psg.edge.get v)

/-- R161, R164: noise advances on half-ticks only, `half` being 1 after the toggle; a noise step shifts
right and feeds bit 0 xor bit 3 into bit 16. The step is a bijection on the nonzero 17-bit states. -/
def Obligations.TickNoiseStep : Prop :=
  (∀ s : State, s.ready → ∃ p : Psg,
    exec .cmdPsgTick s = .next ({ s with psg := p }.answer .ok (.level p.level)) ∧
    (s.psg.half = true →
      p.noiseCnt = s.psg.noiseCnt ∧ p.lfsr = s.psg.lfsr ∧ p.noiseBit = s.psg.noiseBit) ∧
    (s.psg.half = false →
      if max s.psg.noisePeriod.toNat 1 ≤ (s.psg.noiseCnt + 1).toNat then
        p.noiseCnt = 0 ∧ p.lfsr = lfsrNext s.psg.lfsr ∧
        p.lfsr.toNat = s.psg.lfsr.toNat / 2 + (if s.psg.lfsr.getLsbD 0 = s.psg.lfsr.getLsbD 3 then 0 else 2 ^ 16) ∧
        p.noiseBit = p.lfsr.getLsbD 0
      else p.noiseCnt = s.psg.noiseCnt + 1 ∧ p.lfsr = s.psg.lfsr ∧ p.noiseBit = s.psg.noiseBit)) ∧
  (∀ l : BitVec 17, l ≠ 0 → lfsrNext l ≠ 0) ∧ (∀ k l : BitVec 17, lfsrNext k = lfsrNext l → k = l) ∧
  (∀ l : BitVec 17, l ≠ 0 → ∃ k : BitVec 17, k ≠ 0 ∧ lfsrNext k = l)

/-- R161, R166: the envelope step, on half-ticks or on every tick as `ENV_CADENCE` says; the wrap from 31
toggles the mirror bit of the two alternating tables under `ENV_ALT_MODE = Mirror`. -/
def Obligations.TickEnvelopeStep : Prop :=
  ∀ s : State, s.ready → ∃ p : Psg,
    exec .cmdPsgTick s = .next ({ s with psg := p }.answer .ok (.level p.level)) ∧
    (if (s.params.envCadence = .full ∨ s.psg.half = false) ∧
        max s.psg.envPeriod.toNat 1 ≤ (s.psg.envCnt + 1).toNat then
      p.envCnt = 0 ∧
      (if s.psg.envPos = 31 then
        p.envPos = 0 ∧
        p.envAlt = (if s.params.envAltMode = .mirror ∧ (s.psg.envTab.val = 4 ∨ s.psg.envTab.val = 8)
          then !s.psg.envAlt else s.psg.envAlt)
      else p.envPos = s.psg.envPos + 1 ∧ p.envAlt = s.psg.envAlt)
    else
      p.envCnt = (if s.params.envCadence = .full ∨ s.psg.half = false then s.psg.envCnt + 1 else s.psg.envCnt) ∧
      p.envPos = s.psg.envPos ∧ p.envAlt = s.psg.envAlt)

/-- R166: with an envelope period of at most 1 at the half cadence, a shape write reaches position 0 after
32 envelope steps: 63 ticks if `half` was 0, and 64 if it was 1, whatever the shape. -/
def Obligations.EnvelopeResyncsInThirtyTwoSteps : Prop :=
  ∀ (T : Config.Tables) (q : Config.Params) (rate : Nat) (p : Psg) (shape : Byte) (n : Nat),
    p.Inv rate → q.envCadence = .half → p.envPeriod.toNat ≤ 1 →
    (p.half = false → n ≤ 63 →
      (times (fun p => p.tick T q) n (p.writeReg 13 shape)).envPos = -32 + (((n + 1) / 2 : Nat) : Int)) ∧
    (p.half = true → n ≤ 64 →
      (times (fun p => p.tick T q) n (p.writeReg 13 shape)).envPos = -32 + ((n / 2 : Nat) : Int))

/-- R167 to R171: the voices' levels and the mixed level of a tick, from the state after its generator
steps: a disabled voice is silent, bit 4 of the volume selects the envelope, a fixed level l is 2l + 1
on the 5-bit scale and 0 at l = 0, and voice A is the low nibble of the composite index. -/
def Obligations.TickLevels : Prop :=
  ∀ s : State, s.ready → ∃ p : Psg,
    exec .cmdPsgTick s = .next ({ s with psg := p }.answer .ok (.level p.level)) ∧
    (let env : BitVec 5 :=
       if p.envPos < 0 then envTable p.envTab (p.envPos + 32).toNat
       else envTable p.envTab (32 + p.envPos).toNat ^^^ (if p.envAlt then 31 else 0)
     let enabled : Voice → Fin 8 → Fin 8 → Bool := fun v tone noise =>
       (p.edge.get v || s.psg.regs[(7 : Fin 14)].getLsbD tone) && (p.noiseBit || s.psg.regs[(7 : Fin 14)].getLsbD noise)
     let l5 : Bool → Byte → Nat := fun en vol =>
       if en = false then 0 else if vol.getLsbD 4 then env.toNat
       else if vol.toNat % 16 = 0 then 0 else 2 * (vol.toNat % 16) + 1
     let l4 : Bool → Byte → Nat := fun en vol =>
       if en = false then 0 else if vol.getLsbD 4 then env.toNat / 2 else vol.toNat % 16
     let ea := enabled .a 0 3
     let eb := enabled .b 1 4
     let ec := enabled .c 2 5
     let va := s.psg.regs[(8 : Fin 14)]
     let vb := s.psg.regs[(9 : Fin 14)]
     let vc := s.psg.regs[(10 : Fin 14)]
     p.level.toNat ≤ 32767 ∧
     (p.voiceLvl.a.toNat = l5 ea va ∧ p.voiceLvl.b.toNat = l5 eb vb ∧ p.voiceLvl.c.toNat = l5 ec vc) ∧
     p.level.toNat =
       (match s.params.mixMode with
        | .measured => (Config.tables.mix (BitVec.ofNat 12 (l4 ea va + l4 eb vb * 16 + l4 ec vc * 256))).val
        | .linear =>
          (Config.tables.vol (BitVec.ofNat 5 (l5 ea va))).val + (Config.tables.vol (BitVec.ofNat 5 (l5 eb vb))).val +
            (Config.tables.vol (BitVec.ofNat 5 (l5 ec vc))).val))

/-- R201, R202, R203, R205: a PSG sample runs `floor((psgAcc + F_INT) / HOST_RATE)` ticks and carries the
remainder. Under `MaxHold` the raw sample is the largest level of those ticks; under `LinearAverage` it is
the mean of the levels, each weighted by the time to the next tick of the sample. The raw sample replaces
the oldest of the history, and the sample is the raw one less the new mean. -/
def Obligations.PsgSampleRunsDueTicks : Prop :=
  ∀ s : State, s.ready → s.RateInv → ∃ p : Psg, ∃ raw : Nat,
    let n := (s.psg.psgAcc + 250000) / s.hostRate
    let after : Nat → Psg := fun k => times (fun p => p.tick Config.tables s.params) k s.psg
    exec .cmdPsgComputeNextSample s =
      .next ({ s with psg := p }.answer .ok (.sample ((raw : Int) - ((p.dcSum / 2048 : Nat) : Int)))) ∧
    1 ≤ n ∧ n ≤ 250000 / s.hostRate + (s.psg.psgAcc / s.hostRate + 1) ∧
    p = { after n with
      psgAcc := (s.psg.psgAcc + 250000) % s.hostRate
      dcHist := s.psg.dcHist.set s.psg.dcIdx.val (BitVec.ofNat 16 raw)
      dcSum := s.psg.dcSum + raw - (s.psg.dcHist.getD s.psg.dcIdx.val 0).toNat
      dcIdx := s.psg.dcIdx + 1 } ∧
    (s.params.downsample = .maxHold →
      (∃ k, k < n ∧ raw = (after (k + 1)).level.toNat) ∧ (∀ k, k < n → (after (k + 1)).level.toNat ≤ raw)) ∧
    (s.params.downsample = .linearAverage → s.psg.psgAcc < s.hostRate →
      let time : Nat → Nat := fun k => if k = 0 then 0 else k * s.hostRate - s.psg.psgAcc
      raw = (((List.range n).map fun k => (after k).level.toNat * (time (k + 1) - time k)).sum
        + (after n).level.toNat * (250000 - time n)) / 250000)

/-- R206: the PSG sample lies in `[-PSG_CEILING, PSG_CEILING]`, under either down-sampling strategy, and an
input held constant for `DC_LEN` samples gives an output of exactly 0, from any history. -/
def Obligations.PsgSampleRange : Prop :=
  (∀ s : State, s.ready → s.PsgInv → ∃ (t : State) (x : Int),
    exec .cmdPsgComputeNextSample s = .next t ∧ t.out.value = .sample x ∧ -32767 ≤ x ∧ x ≤ 32767) ∧
  (∀ (rate : Nat) (p : Psg) (x : Nat), p.Inv rate → x ≤ 32767 →
    (times (fun p => p.dcPush x) 2048 p).dcOut x = 0)

/-- R441, R442, R443: the three unit resets. -/
def Obligations.UnitResets : Prop :=
  ∀ s : State, s.ready →
    (∃ p : Psg, exec .cmdPsgReset s = .next ({ s with psg := p }.answer .ok .none) ∧
      (∀ i : Fin 14, p.regs[i] = 0) ∧ p.sel = 0 ∧ p.noisePeriod = 0 ∧ p.envPeriod = 0 ∧
      (∀ v : Voice, p.tonePeriod.get v = 0 ∧ p.toneCnt.get v = 0 ∧ p.needReset.get v = false ∧ p.voiceLvl.get v = 0) ∧
      p.edge.a = s.params.toneEdgeInit.getLsbD 0 ∧ p.edge.b = s.params.toneEdgeInit.getLsbD 1 ∧
      p.edge.c = s.params.toneEdgeInit.getLsbD 2 ∧ p.noiseCnt = 0 ∧ p.lfsr = 1 ∧ p.noiseBit = true ∧ p.envCnt = 0 ∧
      p.envTab = 0 ∧ p.envPos = 0 ∧ p.envAlt = false ∧ p.half = false ∧ p.inside = false ∧ p.psgAcc = 0 ∧ p.level = 0 ∧
      p.dcHist.length = 2048 ∧ (∀ x ∈ p.dcHist, x = 0) ∧ p.dcSum = 0 ∧ p.dcIdx = 0) ∧
    (∃ m : Mfp, exec .cmdTimerReset s = .next ({ s with mfp := m }.answer .ok .none) ∧
      (∀ r : MfpReg, m.write r 0 = m) ∧ m.gpip = 0 ∧ m.aer = 0 ∧ m.ddr = 0 ∧ m.iera = 0 ∧ m.ierb = 0 ∧ m.ipra = 0 ∧
      m.iprb = 0 ∧ m.isra = 0 ∧ m.isrb = 0 ∧ m.imra = 0 ∧ m.imrb = 0 ∧ m.vr = 0 ∧ m.tacr = 0 ∧ m.tbcr = 0 ∧ m.tcdcr = 0 ∧
      m.tadr = 0 ∧ m.tbdr = 0 ∧ m.tcdr = 0 ∧ m.tddr = 0 ∧ m.scr = 0 ∧ m.ucr = 0 ∧ m.rsr = 0 ∧ m.tsr = 0 ∧ m.udr = 0 ∧
      (∀ t : Timer, m.cnt.get t = 256 ∧ m.tacc.get t = 0)) ∧
    exec .cmdDmaReset s = .next ({ s with dma := {
      ctrl := 0, frameStart := 0, frameEnd := 0, mode := 0, curStart := 0, curEnd := 0, ptr := 0, dacc := 0,
      mwData := 0, mwMask := 0 } }.answer .ok .none)

/-! ## Timer unit (43_timer) -/

/-- R241, R246: a control write stores the mode bits, and restarts the prescale phase of exactly the timers
whose mode changed. A data write is kept for the next reload, and loads the counter of a stopped timer at
once; 0 stands for 256. -/
def Obligations.TimerControlAndDataWrites : Prop :=
  ∀ (s : State) (b : Byte),
    let load : Nat := if b = 0 then 256 else b.toNat
    exec (.mfpWrTacr b) s = .next { s with mfp := { s.mfp with
      tacr := b &&& 0x0F
      tacc := if b.extractLsb' 0 4 = s.mfp.tacr.extractLsb' 0 4 then s.mfp.tacc else { s.mfp.tacc with a := 0 } } } ∧
    exec (.mfpWrTbcr b) s = .next { s with mfp := { s.mfp with
      tbcr := b &&& 0x0F
      tacc := if b.extractLsb' 0 4 = s.mfp.tbcr.extractLsb' 0 4 then s.mfp.tacc else { s.mfp.tacc with b := 0 } } } ∧
    exec (.mfpWrTcdcr b) s = .next { s with mfp := { s.mfp with
      tcdcr := b &&& 0x77
      tacc := { s.mfp.tacc with
        c := if b.extractLsb' 4 3 = s.mfp.tcdcr.extractLsb' 4 3 then s.mfp.tacc.c else 0
        d := if b.extractLsb' 0 3 = s.mfp.tcdcr.extractLsb' 0 3 then s.mfp.tacc.d else 0 } } } ∧
    exec (.mfpWrTadr b) s = .next { s with mfp := { s.mfp with
      tadr := b, cnt := if s.mfp.tacr.extractLsb' 0 4 = 0 then { s.mfp.cnt with a := load } else s.mfp.cnt } } ∧
    exec (.mfpWrTbdr b) s = .next { s with mfp := { s.mfp with
      tbdr := b, cnt := if s.mfp.tbcr.extractLsb' 0 4 = 0 then { s.mfp.cnt with b := load } else s.mfp.cnt } } ∧
    exec (.mfpWrTcdr b) s = .next { s with mfp := { s.mfp with
      tcdr := b, cnt := if s.mfp.tcdcr.extractLsb' 4 3 = 0 then { s.mfp.cnt with c := load } else s.mfp.cnt } } ∧
    exec (.mfpWrTddr b) s = .next { s with mfp := { s.mfp with
      tddr := b, cnt := if s.mfp.tcdcr.extractLsb' 0 3 = 0 then { s.mfp.cnt with d := load } else s.mfp.cnt } }

/-- R249 to R254: the enables clear the pending bits they disable; pending and in-service bits can only be
cleared; a mask write stores; a vector write with S = 0 ends every service; the storage registers keep
their byte and have no other effect. -/
def Obligations.InterruptAndStorageWrites : Prop :=
  ∀ (s : State) (b : Byte),
    exec (.mfpWrIera b) s = .next { s with mfp := { s.mfp with iera := b, ipra := s.mfp.ipra &&& b } } ∧
    exec (.mfpWrIerb b) s = .next { s with mfp := { s.mfp with ierb := b, iprb := s.mfp.iprb &&& b } } ∧
    exec (.mfpWrIpra b) s = .next { s with mfp := { s.mfp with ipra := s.mfp.ipra &&& b } } ∧
    exec (.mfpWrIprb b) s = .next { s with mfp := { s.mfp with iprb := s.mfp.iprb &&& b } } ∧
    exec (.mfpWrIsra b) s = .next { s with mfp := { s.mfp with isra := s.mfp.isra &&& b } } ∧
    exec (.mfpWrIsrb b) s = .next { s with mfp := { s.mfp with isrb := s.mfp.isrb &&& b } } ∧
    exec (.mfpWrImra b) s = .next { s with mfp := { s.mfp with imra := b } } ∧
    exec (.mfpWrImrb b) s = .next { s with mfp := { s.mfp with imrb := b } } ∧
    exec (.mfpWrVr b) s = .next { s with mfp := { s.mfp with
      vr := b &&& 0xF8
      isra := if b.getLsbD 3 = true then s.mfp.isra else 0
      isrb := if b.getLsbD 3 = true then s.mfp.isrb else 0 } } ∧
    exec (.mfpWrGpip b) s = .next { s with mfp := { s.mfp with gpip := b } } ∧
    exec (.mfpWrAer b) s = .next { s with mfp := { s.mfp with aer := b } } ∧
    exec (.mfpWrDdr b) s = .next { s with mfp := { s.mfp with ddr := b } } ∧
    exec (.mfpWrScr b) s = .next { s with mfp := { s.mfp with scr := b } } ∧
    exec (.mfpWrUcr b) s = .next { s with mfp := { s.mfp with ucr := b } } ∧
    exec (.mfpWrRsr b) s = .next { s with mfp := { s.mfp with rsr := b } } ∧
    exec (.mfpWrTsr b) s = .next { s with mfp := { s.mfp with tsr := b } } ∧
    exec (.mfpWrUdr b) s = .next { s with mfp := { s.mfp with udr := b } }

/-- R247, R105: what the timer window reads as: the running counter at a data register, the pins through
`DDR` at `GPIP`, all ones where no register is; a word is `0xFF` and the byte at the odd offset. A word
write reaches the register at the odd offset with `data[7:0]`; a byte write where no register is, and a
word write past the last register, are dropped. -/
def Obligations.TimerWindow : Prop :=
  ∀ (s : State) (off : BitVec 6) (b : Byte) (w : Half),
    exec (.mfpRdB off) s = .next { s with out := { s.out with
      bus := .byte (mfpByteAt s.params.gpipIn s.mfp off.toNat) } } ∧
    (off.getLsbD 0 = false → exec (.mfpRdW off) s = .next { s with out := { s.out with
      bus := .word ((0xFF : Byte) ++ mfpByteAt s.params.gpipIn s.mfp (off.toNat + 1)) } }) ∧
    exec (.mfpWrDropB off b) s = .next s ∧
    (∀ r : MfpReg, off.getLsbD 0 = false → off.toNat + 1 = r.offset.toNat →
      exec (.mfpWrW off w) s = exec (mfpWriteRow (w.extractLsb' 0 8) r) s ∧ ∃ t, exec (.mfpWrW off w) s = .next t) ∧
    (off.getLsbD 0 = false → 0x30 ≤ off.toNat → exec (.mfpWrW off w) s = .next s) ∧
    ((off.getLsbD 0 = false ∨ 0x30 ≤ off.toNat) →
      decode (busWord 1 0 (BitVec.ofNat 28 (0xFFFA00 + off.toNat)) (b.setWidth 32)) = .ok (.mfpWrDropB off b))

/-- R242, R260, R262: a timer tick adds `MFP_CLOCK` to the phase of a delay-mode timer, takes one count for
each `P * HOST_RATE` in it, and reports the pending, unmasked, ungated interrupt without clearing it. -/
def Obligations.TimerTickCountsDown : Prop :=
  ∀ (s : State) (t : Timer), s.ready →
    let mode : Nat := match t with
      | .a => s.mfp.tacr.toNat % 16
      | .b => s.mfp.tbcr.toNat % 16
      | .c => s.mfp.tcdcr.toNat / 16 % 8
      | .d => s.mfp.tcdcr.toNat % 8
    let P := prescaleList.getD mode 0
    let m : Mfp :=
      if P = 0 then s.mfp
      else
        { times (fun m => m.decrement t) ((s.mfp.tacc.get t + 2457600) / (P * s.hostRate)) s.mfp with
          tacc := s.mfp.tacc.set t ((s.mfp.tacc.get t + 2457600) % (P * s.hostRate)) }
    let gate : Bool := !s.params.isrGating || decide (m.isr.toNat / 2 ^ channel t = 0)
    exec (.cmdTimerTick t) s = .next ({ s with mfp := m }.answer .ok
      (.fired (m.ipr.getLsbD (channel t) && m.imr.getLsbD (channel t) && gate)))

/-- R243, R244: from a counter of k, k - 1 decrements only lower it, and the k-th reloads it from the data
register and sets the pending bit if the channel is enabled; with data D the next time-out is D
decrements later. -/
def Obligations.CountdownReachesTimeout : Prop :=
  ∀ (rate : Nat) (m : Mfp) (t : Timer) (n : Nat), m.Inv rate →
    (n < m.cnt.get t →
      times (fun m => m.decrement t) n m = { m with cnt := m.cnt.set t (m.cnt.get t - n) }) ∧
    (let r := times (fun m => m.decrement t) (m.cnt.get t) m
     r.cnt.get t = (if m.data t = 0 then 256 else (m.data t).toNat) ∧
     (∀ u : Timer, u ≠ t → r.cnt.get u = m.cnt.get u) ∧
     (∀ c, r.ipr.getLsbD c = (m.ipr.getLsbD c || (decide (c = channel t) && m.ier.getLsbD (channel t)))) ∧
     r = { m with cnt := r.cnt, ipra := r.ipra, iprb := r.iprb })

/-- R245, R261, R263: an event counts timer A once in event-count mode and does nothing in every other case.
An acknowledge clears the channel's pending bit, and puts the channel in service when `VR[3]` = 1; no
other bit and no counter changes. -/
def Obligations.TimerEventAndAcknowledge : Prop :=
  ∀ (s : State) (t : Timer), s.ready →
    exec (.cmdTimerEvent t) s = .next ({ s with mfp :=
      if t = Timer.a ∧ s.mfp.tacr.toNat % 16 = 8 then s.mfp.decrement Timer.a else s.mfp }.answer .ok .none) ∧
    ∃ m : Mfp,
      exec (.cmdTimerAcknowledge t) s = .next ({ s with mfp := m }.answer .ok .none) ∧
      m = { s.mfp with ipra := m.ipra, iprb := m.iprb, isra := m.isra, isrb := m.isrb } ∧
      ∀ c, m.ipr.getLsbD c = (s.mfp.ipr.getLsbD c && decide (c ≠ channel t)) ∧
        m.isr.getLsbD c = (s.mfp.isr.getLsbD c || (decide (c = channel t) && s.mfp.vr.getLsbD 3))

/-! ## DMA unit (44_dma) -/

/-- R300, R301, R304: the six frame-bound bytes; bits 7..6 of a high byte and bit 0 of a low byte are
dropped, and the latched bounds stay. The mode register keeps bits 7, 1 and 0; the microwire registers
keep what is written, a byte at the even offset in bits 15..8 and one at the odd offset in bits 7..0. -/
def Obligations.DmaRegisterWrites : Prop :=
  ∀ (s : State) (b : Byte) (w : Half),
    let start := s.dma.frameStart
    let last := s.dma.frameEnd
    exec (.dmaWrStartH b) s = .next { s with dma := { s.dma with
      frameStart := b.extractLsb' 0 6 ++ start.extractLsb' 8 8 ++ start.extractLsb' 0 8 } } ∧
    exec (.dmaWrStartM b) s = .next { s with dma := { s.dma with
      frameStart := start.extractLsb' 16 6 ++ b ++ start.extractLsb' 0 8 } } ∧
    exec (.dmaWrStartL b) s = .next { s with dma := { s.dma with
      frameStart := start.extractLsb' 16 6 ++ start.extractLsb' 8 8 ++ b.extractLsb' 1 7 ++ (0 : BitVec 1) } } ∧
    exec (.dmaWrEndH b) s = .next { s with dma := { s.dma with
      frameEnd := b.extractLsb' 0 6 ++ last.extractLsb' 8 8 ++ last.extractLsb' 0 8 } } ∧
    exec (.dmaWrEndM b) s = .next { s with dma := { s.dma with
      frameEnd := last.extractLsb' 16 6 ++ b ++ last.extractLsb' 0 8 } } ∧
    exec (.dmaWrEndL b) s = .next { s with dma := { s.dma with
      frameEnd := last.extractLsb' 16 6 ++ last.extractLsb' 8 8 ++ b.extractLsb' 1 7 ++ (0 : BitVec 1) } } ∧
    exec (.dmaWrMode b) s = .next { s with dma := { s.dma with mode := b &&& 0x83 } } ∧
    exec (.dmaWrMwdataW w) s = .next { s with dma := { s.dma with mwData := w } } ∧
    exec (.dmaWrMwmaskW w) s = .next { s with dma := { s.dma with mwMask := w } } ∧
    exec (.dmaWrMwdataB false b) s = .next { s with dma := { s.dma with mwData := b ++ s.dma.mwData.extractLsb' 0 8 } } ∧
    exec (.dmaWrMwdataB true b) s = .next { s with dma := { s.dma with mwData := s.dma.mwData.extractLsb' 8 8 ++ b } } ∧
    exec (.dmaWrMwmaskB false b) s = .next { s with dma := { s.dma with mwMask := b ++ s.dma.mwMask.extractLsb' 0 8 } } ∧
    exec (.dmaWrMwmaskB true b) s = .next { s with dma := { s.dma with mwMask := s.dma.mwMask.extractLsb' 8 8 ++ b } }

/-- R302: a control write stores two bits; only bit 0 rising latches the bounds, points at the start and
clears the carried time. -/
def Obligations.DmaControlWrite : Prop :=
  ∀ (s : State) (b : Byte),
    exec (.dmaWrCtrl b) s = .next { s with dma :=
      if (s.dma.ctrl.getLsbD 0 = false ∧ b.getLsbD 0 = true) then
        { s.dma with
          ctrl := b.extractLsb' 0 2
          curStart := s.dma.frameStart
          curEnd := s.dma.frameEnd
          ptr := BitVec.ofNat 24 s.dma.frameStart.toNat
          dacc := 0 }
      else { s.dma with ctrl := b.extractLsb' 0 2 } }

/-- R303, R305, R106: what the DMA window reads as; a word is the microwire register, or `0xFF` and the byte
at the odd offset. A word write elsewhere than at the microwire registers is a byte write of `data[7:0]`
at the odd offset; writes to the frame counter and to unassigned offsets are dropped. -/
def Obligations.DmaWindow : Prop :=
  ∀ (s : State) (off : BitVec 6) (b : Byte) (w : Half),
    exec (.dmaRdB off) s = .next { s with out := { s.out with bus := .byte (dmaByteAt s.dma off.toNat) } } ∧
    (off.getLsbD 0 = false → exec (.dmaRdW off) s = .next { s with out := { s.out with bus := .word (
      if off.toNat = 0x22 then s.dma.mwData
      else if off.toNat = 0x24 then s.dma.mwMask
      else (0xFF : Byte) ++ dmaByteAt s.dma (off.toNat + 1)) } }) ∧
    exec (.dmaWrDropB off b) s = .next s ∧
    (∀ r : DmaReg, off.getLsbD 0 = false → off.toNat ≠ 0x22 → off.toNat ≠ 0x24 → off.toNat + 1 = r.offset.toNat →
      exec (.dmaWrW off w) s = exec (dmaWriteRow (w.extractLsb' 0 8) r) s ∧ ∃ t, exec (.dmaWrW off w) s = .next t) ∧
    (off.getLsbD 0 = false →
      off.toNat + 1 ∉ [0x01, 0x03, 0x05, 0x07, 0x0F, 0x11, 0x13, 0x21, 0x23, 0x25] → exec (.dmaWrW off w) s = .next s) ∧
    (off.toNat ∉ [0x01, 0x03, 0x05, 0x07, 0x0F, 0x11, 0x13, 0x21, 0x22, 0x23, 0x24, 0x25] →
      decode (busWord 1 0 (BitVec.ofNat 28 (0xFF8900 + off.toNat)) (b.setWidth 32)) = .ok (.dmaWrDropB off b))

/-- R310: a stopped unit returns 0 and changes nothing; a playing one returns the frame at the pointer,
signed mono or the floor of the stereo average, times 64, and changes only itself and the timer unit. -/
def Obligations.DmaSampleValue : Prop :=
  ∀ s : State, s.ready →
    (s.dma.ctrl.getLsbD 0 = false → exec .cmdDmaComputeNextSample s = .next (s.answer .ok (.sample 0))) ∧
    (s.dma.ctrl.getLsbD 0 = true → ∃ (d : Dma) (m : Mfp),
      let at_ : Nat → Int := fun a => if a < 0x400000 then (s.mem.read a).toInt else 0
      exec .cmdDmaComputeNextSample s = .next ({ s with dma := d, mfp := m }.answer .ok (.sample (
        if s.dma.mode.getLsbD 7 = true then at_ s.dma.ptr.toNat * 64
        else ((at_ s.dma.ptr.toNat + at_ (s.dma.ptr.toNat + 1)) / 2) * 64))))

/-- R310, R311, R313: the advances of the play pointer in one sample. Time short of a sample only
accumulates. For each whole sample of time the pointer moves one frame; at the end of the frame timer A
gets one event and a looping unit latches the programmed bounds while a one-shot unit stops, its carried
time cleared and the advances left dropped. The first three clauses are the cases of at most one advance. -/
def Obligations.DmaPointerAdvance : Prop :=
  ∀ s : State, s.ready → s.DmaInv → s.dma.ctrl.getLsbD 0 = true →
    let rate : Nat := [6258, 12517, 25033, 50066].getD (s.dma.mode.toNat % 4) 0
    let size : Nat := if s.dma.mode.getLsbD 7 = true then 1 else 2
    let acc := s.dma.dacc + rate
    let moved := BitVec.ofNat 24 (s.dma.ptr.toNat + size)
    let advance : Dma × Mfp → Dma × Mfp := fun x =>
      let next := BitVec.ofNat 24 (x.1.ptr.toNat + size)
      if x.1.ctrl.getLsbD 0 = false then x
      else if next.toNat < x.1.curEnd.toNat then ({ x.1 with ptr := next }, x.2)
      else if x.1.ctrl.getLsbD 1 = true then
        ({ x.1 with
            curStart := x.1.frameStart
            curEnd := x.1.frameEnd
            ptr := BitVec.ofNat 24 x.1.frameStart.toNat }, x.2.event .a)
      else ({ x.1 with ptr := next, ctrl := 0 }, x.2.event .a)
    ∃ x : Int,
      (acc < s.hostRate → exec .cmdDmaComputeNextSample s =
        .next ({ s with dma := { s.dma with dacc := acc } }.answer .ok (.sample x))) ∧
      (s.hostRate ≤ acc → acc < 2 * s.hostRate → s.dma.ptr.toNat + size < s.dma.curEnd.toNat →
        exec .cmdDmaComputeNextSample s =
          .next ({ s with dma := { s.dma with dacc := acc - s.hostRate, ptr := moved } }.answer .ok (.sample x))) ∧
      (s.hostRate ≤ acc → acc < 2 * s.hostRate → s.dma.curEnd.toNat ≤ s.dma.ptr.toNat + size →
        exec .cmdDmaComputeNextSample s = .next ({ s with
          mfp := s.mfp.event .a
          dma :=
            if s.dma.ctrl.getLsbD 1 = true then
              { s.dma with
                dacc := acc - s.hostRate
                curStart := s.dma.frameStart
                curEnd := s.dma.frameEnd
                ptr := BitVec.ofNat 24 s.dma.frameStart.toNat }
            else { s.dma with dacc := 0, ptr := moved, ctrl := 0 } }.answer .ok (.sample x))) ∧
      (let y := times advance (acc / s.hostRate) (s.dma, s.mfp)
       exec .cmdDmaComputeNextSample s = .next ({ s with
         dma := { y.1 with dacc := if y.1.ctrl.getLsbD 0 = true then acc % s.hostRate else 0 }
         mfp := y.2 }.answer .ok (.sample x)))

/-- R314: a one-shot mono frame of L bytes at the host's own rate gives one sample for each of its bytes,
in order, and then stands stopped just past the frame, with one event for timer A. -/
def Obligations.OneShotFramePlaysOnce : Prop :=
  ∀ (rate : Nat) (mem : Memory) (d : Dma) (m : Mfp) (L k : Nat),
    1 ≤ rate → 1 ≤ L → d.rate = rate → d.mode.getLsbD 7 = true → d.ctrl = 1 → d.dacc = 0 →
    d.ptr.toNat + L = d.curEnd.toNat → k < L →
    let after : Nat → Dma × Mfp := fun n => times (fun x => (dmaSample rate mem x.1 x.2).1) n (d, m)
    (dmaSample rate mem (after k).1 (after k).2).2 = (mem.read (d.ptr.toNat + k)).toInt * 64 ∧
    (after k).2 = m ∧
    after L = ({ d with ctrl := 0, ptr := BitVec.ofNat 24 d.curEnd.toNat }, m.event .a)

/-! ## The machine driver and the sequencer (45, 60, 70) -/

/-- R331, R332, R333, R445: Startup at a legal rate. RAM is zero but for the sentinels and the cookies, the
units are reset, and the loader's inputs stay. -/
def Obligations.StartupResetsMachine : Prop :=
  ∀ (s : State) (r : Long), s.busy = false → 1 ≤ r.toNat → r.toNat ≤ 250000 → ∃ t : State,
    exec (.cmdStartup r) s = .next t ∧
    t = { s with
      started := true, hostRate := r.toNat, psg := Psg.resetOf s.params, mfp := Mfp.atReset, dma := Dma.atReset,
      mem := t.mem, exit := .none, exitInfo := 0, bump := 0x300000, busy := false, irqFailed := false,
      sessionFault := false, faultCode := .none, faultInfo := 0,
      seq := { s.seq with tickAcc := 0, curSubsong := 0 }, cpu := ⟨0, 0, 0x2700, none⟩,
      out := { s.out with result := .ok, value := .none } } ∧
    t.mem.read16 0x500 = 0x4E70 ∧ t.mem.read16 0x502 = 0x4E70 ∧ t.mem.read32 0x5A0 = 0x600 ∧
    t.mem.read32 0x600 = 0x5F4D4348 ∧ t.mem.read32 0x604 = 0x00010000 ∧ t.mem.read32 0x608 = 0x5F534E44 ∧
    t.mem.read32 0x60C = 3 ∧ t.mem.read32 0x610 = 0 ∧ t.mem.read32 0x614 = 4 ∧
    (∀ a, (a < 0x500 ∨ (0x504 ≤ a ∧ a < 0x5A0) ∨ (0x5A4 ≤ a ∧ a < 0x600) ∨ 0x618 ≤ a) → t.mem.read a = 0)

/-- R331, R340, R341, R440: what is refused changes nothing but the result. An operand out of range is
refused; no command starts while a bounded execution runs, and before the first Startup only Startup and
Load are accepted. That the unit commands are refused while it runs, and that Load is refused as a whole
for its rate, is the model's reading (log 11, log 16). -/
def Obligations.RefusedCommandsChangeNothing : Prop :=
  ∀ (s : State) (i : Instr) (r secs : Long),
    (r.toNat < 1 ∨ 250000 < r.toNat → exec (.cmdStartup r) s = .next (s.answer .refused .none)) ∧
    (s.ready → s.oob.frames = 0 → exec .cmdRunUntilReturn s = .next (s.answer .refused .none)) ∧
    (∀ m : SongModule, s.oob.song = some m → m.acceptable = true → (s.oob.hostRate < 1 ∨ 250000 < s.oob.hostRate) →
      exec (.cmdLoad secs) s = .next (s.answer .refused .none)) ∧
    ((s.busy = true ∨ s.started = false) → needsStartup i = true → exec i s = .next (s.answer .refused .none)) ∧
    (s.busy = true →
      exec (.cmdStartup r) s = .next (s.answer .refused .none) ∧ exec (.cmdLoad r) s = .next (s.answer .refused .none))

/-- R340, R330: entering a bounded execution. The return frame and the reset vector are in RAM, big-endian,
the CPU has been pulsed to them, the exit condition is clear, and no other byte has changed. -/
def Obligations.RunEntryBuildsFrame : Prop :=
  ∀ s : State, s.ready → s.MemoryInv → 1 ≤ s.oob.frames →
    let sp : Nat := match s.oob.path with
      | .rts => 0xFFFC
      | .rte => 0xFFFA
    ∃ m : Memory,
      exec .cmdRunUntilReturn s = .next { s with
        busy := true, exit := .none, exitInfo := 0, mem := m, run := ⟨.host, s.oob.frames⟩,
        cpu := ⟨BitVec.ofNat 32 sp, s.oob.entry.setWidth 32, 0x2700, s.oob.d0⟩,
        out := { s.out with result := .pending, value := .none } } ∧
      m.read32 0 = BitVec.ofNat 32 sp ∧ m.read32 4 = s.oob.entry.setWidth 32 ∧
      (s.oob.path = .rts → m.read32 sp = 0x500) ∧
      (s.oob.path = .rte → m.read16 sp = 0x2700 ∧ m.read32 (sp + 2) = 0x502) ∧
      (∀ a, 8 ≤ a → (a < sp ∨ 0x10000 ≤ a) → m.read a = s.mem.read a)

/-- R362, R412, R264: dispatching a timer. Its channel is acknowledged first, the PSG is told, and the run
starts at the vector's address with the RTE frame and one slice. The entry is the vector's low 24 bits
(log 13, the model's choice). -/
def Obligations.DispatchEntersHandler : Prop :=
  ∀ (s : State) (t : Timer) (c : Caller), s.MemoryInv →
    let d := s.dispatch t c
    d.busy = true ∧ d.exit = .none ∧ d.run = ⟨c, 1⟩ ∧ d.mfp = s.mfp.acknowledge t ∧ d.psg.inside = true ∧
    d.psg = { s.psg with inside := true } ∧ d.dma = s.dma ∧ d.seq = s.seq ∧ d.sessionFault = s.sessionFault ∧
    d.cpu = ⟨0xFFFA, ((s.mem.read32 (vectorTable t)).setWidth 24 : Addr).setWidth 32, 0x2700, none⟩ ∧
    d.mem.read16 0xFFFA = 0x2700 ∧ d.mem.read32 0xFFFC = 0x502 ∧
    (∀ a, 8 ≤ a → (a < 0xFFFA ∨ 0x10000 ≤ a) → d.mem.read a = s.mem.read a)

/-- R340, R342, R402, R403: the slices and the end of a run the host asked for. While no exit condition is
set and slices are left, the CPU agent's return only starts the next slice. Then `busy` falls; the
sentinel gives OK; a fatal exit gives its code and info and becomes the session's fault; no condition
after the last slice is a timeout and no fault. A return before the slice's 160000 cycles without a
condition breaks the agent's contract (R330), which is the model's fault (log 8). That a run which times
out after an earlier session fault answers the timeout is the model's choice (log 27). -/
def Obligations.HostRunOutcome : Prop :=
  ∀ (s : State) (c : Nat) (rest : List Input), s.inputs = .agentReturn c :: rest → s.busy = true →
    (s.exit = .none → 160000 ≤ c → 1 < s.run.framesLeft →
      step s = .next { s with inputs := rest, run := { s.run with framesLeft := s.run.framesLeft - 1 } }) ∧
    (s.exit = .none → c < 160000 → step s = .fault .agentContract) ∧
    (s.run.caller = .host →
      (s.exit = .sentinel → step s = .next ({ s with inputs := rest, busy := false, run := ⟨.host, 0⟩ }.answer .ok .none)) ∧
      (s.exit ≠ .none → s.exit ≠ .sentinel → step s = .next ({ s with
        inputs := rest, busy := false, run := ⟨.host, 0⟩, sessionFault := true, faultCode := s.exit,
        faultInfo := s.exitInfo }.answer (.failFatal s.exit s.exitInfo) .none)) ∧
      (s.exit = .none → 160000 ≤ c → s.run.framesLeft ≤ 1 →
        step s = .next ({ s with inputs := rest, busy := false, run := ⟨.host, 0⟩ }.answer .failTimeout .none)))

/-- R207, R360, R361, R362, R374, R402: what follows a timer's handler. The PSG is told that it has ended, a
handler that missed its sentinel is kept in `irqFailed`, and a fatal exit is the session's fault and skips
the timers left. The other timers are ticked in order, and the first to signal is dispatched. With none
left, the sample `x` is answered to the host, or goes into the buffer of its render. A render then fails
with the samples written so far, or ends with its last sample, or goes on: to a play call that has come
due, to a timer that signals on its next sample or a later one, or through its remaining samples. The debug
request of the host's own sample is read here, after the handlers, and that of a render was kept in its record when it began; both are the
model's choice (log 23). -/
def Obligations.HandlerReturnAnswersSample : Prop :=
  ∀ (s : State) (c : Nat) (rest : List Input) (ts : List Timer) (x : Int) (r : Option Render),
    s.inputs = .agentReturn c :: rest → s.busy = true → s.run.caller = .irq ts x r → s.runEnds c →
    let b : State := { s.runEnded with
      inputs := rest, psg := s.psg.insideTimerIrq false, irqFailed := s.irqFailed || decide (s.exit ≠ .sentinel) }
    let d : State := if b.sessionFault = true then b else b.ticked ts
    let word : Long := debugComposite b.psg.voiceLvl
    (b.sessionFault = false → ∀ (pre post : List Timer) (t : Timer), ts = pre ++ t :: post →
      b.quiet pre → (b.ticked (pre ++ [t])).fires t →
      step s = .next ((b.ticked (pre ++ [t])).dispatch t (.irq post x r))) ∧
    (b.sessionFault = true ∨ b.quiet ts →
      (r = none → step s = .next { d with out := { d.out with
        result := .ok, value := .sample x, dbg := if s.oob.debug = true then [word] else [] } }) ∧
      (∀ rr : Render, r = some rr →
        let e : State := { d with out := { d.out with
          buf := d.out.buf ++ [x], dbg := d.out.dbg ++ (if rr.debug = true then [word] else []) } }
        let f : State := { e with seq := { e.seq with tickAcc := e.seq.tickAcc + e.seq.tickRate } }
        (b.sessionFault = true ∨ b.irqFailed = true → step s = .next (e.answer e.failResult (.written (rr.done + 1)))) ∧
        (b.sessionFault = false → b.irqFailed = false →
          ∃ t : State, step s = .next t ∧ RenderGoesOn f t { rr with done := rr.done + 1 })))

/-- R343, R344, R345, R350, R352: inside a run, `RESET` reaches the sentinel unless a condition is set
already, an illegal opcode and an unknown trap are fatal with their operand as info, and Sversion returns
0x1500. The first condition of a run is kept (R400). Outside a run a callback is refused. -/
def Obligations.CallbackConditions : Prop :=
  ∀ (s : State) (pc : Addr) (op fn : Half),
    (s.busy = true →
      exec (.cbReset pc) s = .next { s with exit := if s.exit = .none then .sentinel else s.exit } ∧
      exec (.cbIllegal op) s = .next { s with
        exit := if s.exit = .none then .illegal else s.exit
        exitInfo := if s.exit = .none then op.setWidth 32 else s.exitInfo } ∧
      exec (.cbGemdos 0x30) s = .next { s with cpu := { s.cpu with d0 := some 0x1500 } } ∧
      (fn ≠ 0x48 → fn ≠ 0x30 → exec (.cbGemdos fn) s = .next { s with
        exit := if s.exit = .none then .unsupportedTrap else s.exit
        exitInfo := if s.exit = .none then fn.setWidth 32 else s.exitInfo })) ∧
    (s.busy = false → ∀ i : Instr, isCallback i = true → exec i s = .refused .callbackOutsideRun)

/-- R350, R351: Malloc reads its size at `sp + 2`, answers the free space for the size -1, and otherwise the
bump pointer, which grows by the size rounded up to a multiple of 4; past the end of RAM it raises
`AllocOverflow(size)` and the pointer stays. The size is what the bus answers at that address: RAM's bytes,
and in a device window or an unmapped place what a long read there is answered with. That an odd stack
pointer refuses the callback (R80), and that a size outside the 24-bit space raises `AddressViolation` and
allocates nothing (R79), is the model's reading (log 15). -/
def Obligations.MallocBumpsPointer : Prop :=
  ∀ s : State, s.busy = true → s.BumpInv →
    let a := s.cpu.a7.toNat + 2
    let malloc : Long → State := fun size =>
      let n := (size.toNat + 3) / 4 * 4
      if size = 0xFFFFFFFF then
        { s with cpu := { s.cpu with d0 := some (BitVec.ofNat 32 (0x400000 - s.bump.toNat)) } }
      else if s.bump.toNat + n ≤ 0x400000 then
        { s with
          bump := BitVec.ofNat 24 (s.bump.toNat + n)
          cpu := { s.cpu with d0 := some (BitVec.ofNat 32 s.bump.toNat) } }
      else
        { s with
          exit := if s.exit = .none then .allocOverflow else s.exit
          exitInfo := if s.exit = .none then size else s.exitInfo }
    let violated : Nat → State := fun addr =>
      { s with
        exit := if s.exit = .none then .addressViolation else s.exit
        exitInfo := if s.exit = .none then BitVec.ofNat 32 addr else s.exitInfo }
    (a % 2 = 0 → a + 4 ≤ 0x400000 → exec (.cbGemdos 0x48) s = .next (malloc (s.mem.read32 a))) ∧
    (a % 2 = 0 → a + 2 < 2 ^ 24 → ∃ size : Long,
      exec (.busRdL (BitVec.ofNat 24 a)) s = .next { s with out := { s.out with bus := .long size } } ∧
      exec (.cbGemdos 0x48) s = .next (malloc size)) ∧
    (a % 2 = 1 → exec (.cbGemdos 0x48) s = .refused .oddStack) ∧
    (a % 2 = 0 → 2 ^ 24 ≤ a → exec (.cbGemdos 0x48) s = .next (violated a)) ∧
    (a % 2 = 0 → a < 2 ^ 24 → 2 ^ 24 ≤ a + 2 → exec (.cbGemdos 0x48) s = .next (violated (a + 2)))

/-- R370, R371: Load refuses a module without subsongs, with more than 128, without a tick rate or with a
bad header, and leaves the machine unloaded; it stores any other and starts the machine. One duration for
each subsong is the model's requirement (log 17). The metadata of a subsong is reported from what Load
stored, or a failure for an id that is not one; nothing else changes. -/
def Obligations.LoadAndSubsongInfo : Prop :=
  (∀ (s : State) (secs : Long), s.busy = false →
    ((s.oob.song = none ∨ ∃ m, s.oob.song = some m ∧
        (m.headerOk = false ∨ m.subsongCount = 0 ∨ 128 < m.subsongCount ∨ m.tickRate = 0)) →
      exec (.cmdLoad secs) s =
        .next ({ s with seq := { s.seq with loaded := false } }.answer .failInvalid .none)) ∧
    (∀ m : SongModule, s.oob.song = some m → m.headerOk = true → 1 ≤ m.subsongCount → m.subsongCount ≤ 128 →
      1 ≤ m.tickRate → m.duration.length = m.subsongCount → 1 ≤ s.oob.hostRate → s.oob.hostRate ≤ 250000 →
      ∃ t u : State, exec (.cmdLoad secs) s = .next t ∧
        exec (.cmdStartup (BitVec.ofNat 32 s.oob.hostRate)) s = .next u ∧
        t = { u with seq := {
          loaded := true, subsongCount := m.subsongCount, duration := m.duration, tickRate := m.tickRate,
          image := m.image, defaultDurationSeconds := secs, curSubsong := 0, tickAcc := 0 } })) ∧
  (∀ (s : State) (id : Long), s.ready →
    ((s.seq.loaded = false ∨ id.toNat < 1 ∨ s.seq.subsongCount < id.toNat) →
      exec (.cmdGetSubsongInfo id) s = .next (s.answer .failInvalid .none)) ∧
    (s.seq.loaded = true → 1 ≤ id.toNat → id.toNat ≤ s.seq.subsongCount →
      exec (.cmdGetSubsongInfo id) s = .next (s.answer .ok (.info {
        subsongCount := s.seq.subsongCount
        tickCount := s.seq.duration.getD (id.toNat - 1) 0
        tickRate := s.seq.tickRate
        samplesPerTick := s.hostRate / s.seq.tickRate
        defaultDurationSeconds := s.seq.defaultDurationSeconds }))))

/-- R331, R332, R340, R372, R373: InitSubSong fails without side effects on a bad id or an image that does not fit;
otherwise it starts the machine anew, puts the image at 0x10000 and runs its init entry, the id in D0, for at
most 500 slices. RAM is zero but for the image, the sentinels, the cookies, the run's frame and its reset
vector, and every other part of the state is as after Startup at the same rate. -/
def Obligations.InitSubSongRunsInit : Prop :=
  ∀ (s : State) (id : Long), s.ready →
    ((s.seq.loaded = false ∨ id.toNat < 1 ∨ s.seq.subsongCount < id.toNat ∨ 0x3F0000 < s.seq.image.length) →
      exec (.cmdInitSubSong id) s = .next (s.answer .failInvalid .none)) ∧
    (s.seq.loaded = true → 1 ≤ id.toNat → id.toNat ≤ s.seq.subsongCount → s.seq.image.length ≤ 0x3F0000 →
      ∃ t : State, exec (.cmdInitSubSong id) s = .next t ∧
        t = { s with
          started := true, psg := Psg.resetOf s.params, mfp := Mfp.atReset, dma := Dma.atReset, mem := t.mem
          exit := .none, exitInfo := 0, bump := 0x300000, busy := true, irqFailed := false, sessionFault := false
          faultCode := .none, faultInfo := 0, seq := { s.seq with tickAcc := 0, curSubsong := 0 }
          cpu := ⟨0xFFFC, 0x10000, 0x2700, some id⟩, run := ⟨.init id.toNat, 500⟩
          out := { s.out with result := .pending, value := .none } } ∧
        t.mem.read32 0 = 0xFFFC ∧ t.mem.read32 4 = 0x10000 ∧ t.mem.read32 0xFFFC = 0x500 ∧
        (∀ k, k < s.seq.image.length → t.mem.read (0x10000 + k) = s.seq.image.getD k 0) ∧
        t.mem.read16 0x500 = 0x4E70 ∧ t.mem.read16 0x502 = 0x4E70 ∧ t.mem.read32 0x5A0 = 0x600 ∧
        t.mem.read32 0x600 = 0x5F4D4348 ∧ t.mem.read32 0x604 = 0x00010000 ∧ t.mem.read32 0x608 = 0x5F534E44 ∧
        t.mem.read32 0x60C = 3 ∧ t.mem.read32 0x610 = 0 ∧ t.mem.read32 0x614 = 4 ∧
        (∀ a, ((8 ≤ a ∧ a < 0x500) ∨ (0x504 ≤ a ∧ a < 0x5A0) ∨ (0x5A4 ≤ a ∧ a < 0x600) ∨ (0x618 ≤ a ∧ a < 0xFFFC) ∨
          0x10000 + s.seq.image.length ≤ a) → t.mem.read a = 0))

/-- R372, R375, R402: the end of an init run, in whichever slice it comes. The tick accumulator stands at one
whole tick and `irqFailed` is clear; the subsong is current only if init reached its sentinel; a fatal exit
is the session's fault. -/
def Obligations.InitOutcome : Prop :=
  ∀ (s : State) (c id : Nat) (rest : List Input), s.inputs = .agentReturn c :: rest → s.busy = true →
    s.run.caller = .init id → s.runEnds c →
    let b : State := s.runEnded
    let t : State := { b with
      inputs := rest, irqFailed := false
      seq := { b.seq with tickAcc := b.hostRate, curSubsong := if s.exit = .sentinel then id else 0 } }
    step s = .next (t.answer (if s.exit = .sentinel then .ok else b.failResult) .none)

/-- R207, R360, R373, R374, R402: how a render starts. After a session fault it fails with the kept fault, without a
subsong it is invalid, and for 0 samples it succeeds and clears `irqFailed`. Otherwise it goes on through any
number of quiet samples: to its end, to a play call that is due (which lowers the tick accumulator and runs
the play entry at 0x10008, with at least one slice and `ceil(50 / tickRate)` below 50 Hz), or to the first
timer of a sample that signals. The debug request (R207) of the whole render is `oob.debug` as it stands when
the render begins, which is the model's choice (log 23). -/
def Obligations.RenderStarts : Prop :=
  ∀ (s : State) (n : Long), s.ready →
    let cleared : State := { s with out := { s.out with buf := [], dbg := [] } }
    (s.sessionFault = true →
      exec (.cmdAudioRender n) s = .next (cleared.answer (.failFatal s.faultCode s.faultInfo) (.written 0))) ∧
    (s.sessionFault = false → s.seq.curSubsong = 0 →
      exec (.cmdAudioRender n) s = .next (cleared.answer .failInvalid (.written 0))) ∧
    (s.sessionFault = false → s.seq.curSubsong ≠ 0 → n = 0 →
      exec (.cmdAudioRender n) s = .next ({ cleared with irqFailed := false }.answer .ok (.written 0))) ∧
    (s.sessionFault = false → s.seq.curSubsong ≠ 0 →
      ∃ t : State, exec (.cmdAudioRender n) s = .next t ∧
        RenderGoesOn { cleared with irqFailed := false } t ⟨n.toNat, 0, s.oob.debug⟩)

/-- R207, R360, R374, R402, R403: the end of a play call. One that misses its sentinel ends the render with the samples
written so far: FAIL_FATAL after a fatal exit, else FAIL_TIMEOUT. After one that succeeds the render goes on:
with the next play call if one is due, to the dispatch of a timer that signals on its next sample or a later
one, or through its remaining samples. Its debug words (R207) follow the request kept in the render's record
when it began, not the operands as they stand now, which is the model's choice (log 23). -/
def Obligations.PlayReturnContinuesRender : Prop :=
  ∀ (s : State) (c : Nat) (rest : List Input) (r : Render), s.inputs = .agentReturn c :: rest → s.busy = true →
    s.run.caller = .play r → s.runEnds c →
    let b : State := { s.runEnded with inputs := rest }
    (s.exit ≠ .sentinel → step s = .next (b.answer b.failResult (.written r.done))) ∧
    (s.exit = .sentinel → ∃ t : State, step s = .next t ∧ RenderGoesOn b t r)

/-- R207, R360, R362, R374: a render whose next sample fires a timer. The sample is the host's own (the PSG and the
DMA sample, added and clamped); the first timer to signal is dispatched, with the sample and the render
kept for its return. The render's debug request (R207) is `oob.debug` as it stands when the render begins,
which is the model's choice (log 23). -/
def Obligations.RenderSampleDispatches : Prop :=
  ∀ (s u v : State) (n : Long) (p d : Int), s.ready → s.sessionFault = false → s.seq.curSubsong ≠ 0 → n ≠ 0 →
    s.seq.tickAcc < s.hostRate →
    exec .cmdPsgComputeNextSample s = .next u → u.out.value = .sample p →
    exec .cmdDmaComputeNextSample s = .next v → v.out.value = .sample d →
    let made : State := { s with
      psg := u.psg, dma := v.dma, mfp := v.mfp, irqFailed := false, out := { s.out with buf := [], dbg := [] } }
    ∀ (pre post : List Timer) (t : Timer), [Timer.a, .b, .c, .d] = pre ++ t :: post →
      made.quiet pre → (made.ticked (pre ++ [t])).fires t →
      exec (.cmdAudioRender n) s = .next ((made.ticked (pre ++ [t])).dispatch t
        (.irq post (min 32767 (max (-32768) (p + d))) (some ⟨n.toNat, 0, s.oob.debug⟩)))

/-- R207, R374, R360: with every interrupt masked and no play call due among them, a render of n samples
answers OK with n samples in the buffer, all of them 16-bit values, without running the CPU. Sample k is the
clamped sum of the PSG and the DMA sample of the state after k samples, and the units are those after n, the
four timers ticked with each; memory is untouched and the tick accumulator has advanced n times. If asked
for, the debug stream has one word for each sample, made of the voices' levels after its last tick; that it is asked for through
`oob.debug`, read when the render begins, is the model's choice (log 23). -/
def Obligations.QuietRenderWritesEverySample : Prop :=
  ∀ (s : State) (n : Long), s.ready → s.sessionFault = false → s.seq.curSubsong ≠ 0 →
    s.mfp.imra = 0 → s.mfp.imrb = 0 → n ≠ 0 → s.seq.tickAcc + (n.toNat - 1) * s.seq.tickRate < s.hostRate →
    ∃ t : State, exec (.cmdAudioRender n) s = .next t ∧
      t.out.result = .ok ∧ t.out.value = .written n.toNat ∧ t.out.buf.length = n.toNat ∧
      (∀ x ∈ t.out.buf, -32768 ≤ x ∧ x ≤ 32767) ∧ t.busy = false ∧ t.mem = s.mem ∧ t.cpu = s.cpu ∧
      t.seq.tickAcc = s.seq.tickAcc + n.toNat * s.seq.tickRate ∧ t.psg.regs = s.psg.regs ∧
      RenderDone { s with irqFailed := false, out := { s.out with buf := [], dbg := [] } } t ⟨n.toNat, 0, s.oob.debug⟩

/-- R207, R262, R360, R362, R402: the host's own sample: the PSG sample and the DMA sample, added and clamped. Then
the four timers are ticked in order. If none signals, as when every interrupt is masked, the sample is
answered. The first to signal is dispatched at once, whichever it is and with either value of `ISR_GATING`,
the timers after it still to be ticked and the sample already made. After a session fault no timer is
ticked. These are the sample and the state that a render's turns are stated with. The debug word is there
only if asked for, its byte v the level of voice v after the sample, and asking for it changes no state but
the answer; that it is asked for through `oob.debug` is the model's choice (log 23). -/
def Obligations.ComputeNextSampleOutcomes : Prop :=
  (∀ s : State, s.ready →
    ∃ (u v : State) (p d : Int),
      exec .cmdPsgComputeNextSample s = .next u ∧ u.out.value = .sample p ∧
      exec .cmdDmaComputeNextSample s = .next v ∧ v.out.value = .sample d ∧
      (let x : Int := min 32767 (max (-32768) (p + d))
       let made : State := { s with psg := u.psg, dma := v.dma, mfp := v.mfp }
       s.sampleValue = x ∧ s.sampleMade = made ∧
       let answered : State → State := fun a => { a with out := { a.out with
         result := .ok, value := .sample x
         dbg := if s.oob.debug = true then [debugComposite u.psg.voiceLvl] else [] } }
       (s.sessionFault = true → exec .cmdComputeNextSample s = .next (answered made)) ∧
       (s.mfp.imra = 0 → s.mfp.imrb = 0 → made.quiet [.a, .b, .c, .d]) ∧
       (s.sessionFault = false → made.quiet [.a, .b, .c, .d] →
         exec .cmdComputeNextSample s = .next (answered (made.ticked [.a, .b, .c, .d]))) ∧
       (s.sessionFault = false → ∀ (pre post : List Timer) (t : Timer), [Timer.a, .b, .c, .d] = pre ++ t :: post →
         made.quiet pre → (made.ticked (pre ++ [t])).fires t →
         exec .cmdComputeNextSample s = .next ((made.ticked (pre ++ [t])).dispatch t (.irq post x none))))) ∧
  (∀ s : State, s.ready → s.mfp.imra = 0 → s.mfp.imrb = 0 →
    ∃ t : State,
      exec .cmdComputeNextSample { s with oob := { s.oob with debug := false } } = .next t ∧ t.out.dbg = [] ∧
      ∃ w : Long,
        exec .cmdComputeNextSample { s with oob := { s.oob with debug := true } } =
          .next { t with oob := { t.oob with debug := true }, out := { t.out with dbg := [w] } } ∧
        w.extractLsb' 0 8 = t.psg.voiceLvl.a.setWidth 8 ∧ w.extractLsb' 8 8 = t.psg.voiceLvl.b.setWidth 8 ∧
        w.extractLsb' 16 8 = t.psg.voiceLvl.c.setWidth 8 ∧ w.extractLsb' 24 8 = 0)

/-! ## What every step keeps -/

/-- The canonical form of RAM, kept by every step (log 18). -/
def Obligations.StepKeepsMemoryCanonical : Prop :=
  ∀ s t : State, s.MemoryInv → step s = .next t → t.MemoryInv

/-- R24, R162, R164, R201 and the ranges of R22 to R27, kept by every step. -/
def Obligations.StepKeepsPsgInvariant : Prop :=
  ∀ s t : State, s.PsgInv → step s = .next t → t.PsgInv

/-- R30, R31, R244, R250 and R254, kept by every step. -/
def Obligations.StepKeepsTimerInvariant : Prop :=
  ∀ s t : State, s.MfpInv → step s = .next t → t.MfpInv

/-- R40, R110 and R312, kept by every step: a playing unit fetches inside RAM. -/
def Obligations.StepKeepsDmaInvariant : Prop :=
  ∀ s t : State, s.DmaInv → step s = .next t → t.DmaInv

/-- R46, R351, R370, R402: the bump pointer, the session fault and the loaded module, kept by every step;
the parameters never change. -/
def Obligations.StepKeepsSession : Prop :=
  ∀ s t : State, step s = .next t →
    t.params = s.params ∧ (s.BumpInv → t.BumpInv) ∧ (s.FaultInv → t.FaultInv) ∧ (s.LoadedInv → t.LoadedInv)

/-- The state after reset satisfies every invariant above. `HOST_RATE` = 44100 is the model's choice (log 2). -/
def Obligations.ResetSatisfiesInvariants : Prop :=
  State.reset.MemoryInv ∧ State.reset.PsgInv ∧ State.reset.MfpInv ∧ State.reset.DmaInv ∧ State.reset.BumpInv ∧
    State.reset.FaultInv ∧ State.reset.LoadedInv
end

