-- ==== Sys2Proof/Laws/Memory.lean ====
section
/-! SUPPORT. The laws of RAM: read after write, and the canonical form every write keeps (20 R71, log 18). -/

namespace Sys2Proof.Machine

open Sys2Proof

/-! ## One byte -/

/-- In canonical form, an address below every listed one reads as unlisted. -/
theorem Memory.read_below {lo a : Nat} {m : Memory} (h : m.wfFrom lo = true) (ha : a < lo) :
    m.read a = Memory.unlisted := by
  induction m generalizing lo with
  | nil => rfl
  | cons c m ih =>
    obtain ⟨b, w⟩ := c
    simp only [Memory.wfFrom, Bool.and_eq_true, decide_eq_true_eq] at h
    obtain ⟨⟨⟨h1, -⟩, -⟩, h2⟩ := h
    simp only [Memory.read]
    rw [if_neg (by omega)]
    exact ih h2 (by omega)

theorem Memory.wfFrom_mono {lo lo' : Nat} {m : Memory} (h : m.wfFrom lo = true) (hl : lo' ≤ lo) :
    m.wfFrom lo' = true := by
  cases m with
  | nil => rfl
  | cons c m =>
    obtain ⟨b, w⟩ := c
    simp only [Memory.wfFrom, Bool.and_eq_true, decide_eq_true_eq] at h ⊢
    exact ⟨⟨⟨by omega, h.1.1.2⟩, h.1.2⟩, h.2⟩

theorem Memory.wfFrom_write {lo a : Nat} {m : Memory} (v : Byte) (h : m.wfFrom lo = true) (hl : lo ≤ a)
    (ha : a < Config.ramSize) : (m.write a v).wfFrom lo = true := by
  induction m generalizing lo with
  | nil =>
    simp only [Memory.write]
    split <;> simp_all [Memory.wfFrom]
  | cons c m ih =>
    obtain ⟨b, w⟩ := c
    have h' := h
    simp only [Memory.wfFrom, Bool.and_eq_true, decide_eq_true_eq] at h'
    obtain ⟨⟨⟨h1, h2⟩, h3⟩, h4⟩ := h'
    simp only [Memory.write]
    split
    · split
      · exact h
      · simp_all [Memory.wfFrom]
    · split
      · split
        · exact Memory.wfFrom_mono h4 (by omega)
        · subst a
          simp_all [Memory.wfFrom]
      · simp only [Memory.wfFrom, Bool.and_eq_true, decide_eq_true_eq]
        exact ⟨⟨⟨h1, h2⟩, h3⟩, ih h4 (by omega)⟩

/-- Every write to RAM keeps the canonical form. -/
theorem Memory.wf_write {a : Nat} {m : Memory} (v : Byte) (h : m.wf = true) (ha : a < Config.ramSize) :
    (m.write a v).wf = true :=
  Memory.wfFrom_write v h (Nat.zero_le a) ha

theorem Memory.read_write_same {m : Memory} (h : m.wf = true) (a : Nat) (v : Byte) :
    (m.write a v).read a = v := by
  have key : ∀ lo, m.wfFrom lo = true → (m.write a v).read a = v := by
    clear h
    induction m with
    | nil =>
      intro lo _
      simp only [Memory.write]
      split
      · simp_all [Memory.read]
      · simp [Memory.read]
    | cons c m ih =>
      obtain ⟨b, w⟩ := c
      intro lo h
      have h' := h
      simp only [Memory.wfFrom, Bool.and_eq_true, decide_eq_true_eq] at h'
      simp only [Memory.write]
      split
      · split
        · rename_i hlt hv
          subst hv
          exact Memory.read_below (lo := b)
            (by simp only [Memory.wfFrom, Bool.and_eq_true, decide_eq_true_eq]
                exact ⟨⟨⟨Nat.le_refl b, h'.1.1.2⟩, h'.1.2⟩, h'.2⟩) hlt
        · simp [Memory.read]
      · split
        · split
          · rename_i hv
            subst hv
            exact Memory.read_below h'.2 (by omega)
          · simp [Memory.read]
        · simp only [Memory.read]
          rw [if_neg (by omega)]
          exact ih _ h'.2
  exact key 0 h

theorem Memory.read_write_other (m : Memory) {a b : Nat} (v : Byte) (hab : b ≠ a) :
    (m.write a v).read b = m.read b := by
  induction m with
  | nil =>
    simp only [Memory.write]
    split
    · rfl
    · simp [Memory.read, Ne.symm hab]
  | cons c m ih =>
    obtain ⟨x, w⟩ := c
    simp only [Memory.write]
    split
    · split
      · rfl
      · simp [Memory.read, Ne.symm hab]
    · split
      · subst a
        split <;> simp [Memory.read, Ne.symm hab]
      · simp [Memory.read, ih]

/-! ## Wider values -/

@[simp] theorem hiByte_append (a b : Byte) : hiByte (a ++ b) = a := by
  apply BitVec.eq_of_getLsbD_eq
  intro i hi
  simp only [hiByte, BitVec.getLsbD_extractLsb', BitVec.getLsbD_append, hi, decide_true, Bool.true_and]
  rw [if_neg (by omega), Nat.add_sub_cancel_left]

@[simp] theorem loByte_append (a b : Byte) : loByte (a ++ b) = b := by
  apply BitVec.eq_of_getLsbD_eq
  intro i hi
  simp only [loByte, BitVec.getLsbD_extractLsb', BitVec.getLsbD_append, hi, decide_true, Bool.true_and, Nat.zero_add]
  rfl

@[simp] theorem hiByte_loByte (w : Half) : hiByte w ++ loByte w = w := by
  apply BitVec.eq_of_getLsbD_eq
  intro i hi
  simp only [hiByte, loByte, BitVec.getLsbD_append, BitVec.getLsbD_extractLsb']
  split <;> rename_i h
  · simp [h]
  · rw [show 8 + (i - 8) = i by omega]
    simp; omega

@[simp] theorem hiHalf_loHalf (l : Long) : hiHalf l ++ loHalf l = l := by
  apply BitVec.eq_of_getLsbD_eq
  intro i hi
  simp only [hiHalf, loHalf, BitVec.getLsbD_append, BitVec.getLsbD_extractLsb']
  split <;> rename_i h
  · simp [h]
  · rw [show 16 + (i - 16) = i by omega]
    simp; omega

theorem Memory.wf_write16 {a : Nat} {m : Memory} (v : Half) (h : m.wf = true) (ha : a + 1 < Config.ramSize) :
    (m.write16 a v).wf = true :=
  Memory.wf_write _ (Memory.wf_write _ h (by omega)) ha

theorem Memory.wf_write32 {a : Nat} {m : Memory} (v : Long) (h : m.wf = true) (ha : a + 3 < Config.ramSize) :
    (m.write32 a v).wf = true :=
  Memory.wf_write16 _ (Memory.wf_write16 _ h (by omega)) (by omega)

theorem Memory.wf_writeBytes {m : Memory} (h : m.wf = true) (vs : List Byte) (a : Nat)
    (ha : a + vs.length ≤ Config.ramSize) : (m.writeBytes a vs).wf = true := by
  induction vs generalizing m a with
  | nil => exact h
  | cons v vs ih =>
    simp only [List.length_cons] at ha
    exact ih (Memory.wf_write v h (by omega)) (a + 1) (by omega)

theorem Memory.read_write16_other (m : Memory) {a b : Nat} (v : Half) (h0 : b ≠ a) (h1 : b ≠ a + 1) :
    (m.write16 a v).read b = m.read b := by
  simp only [Memory.write16]
  rw [Memory.read_write_other _ _ h1, Memory.read_write_other _ _ h0]

theorem Memory.read16_write16_same {m : Memory} (h : m.wf = true) {a : Nat} (ha : a < Config.ramSize) (v : Half) :
    (m.write16 a v).read16 a = v := by
  simp only [Memory.read16, Memory.write16]
  rw [Memory.read_write_same (Memory.wf_write _ h ha), Memory.read_write_other _ _ (by omega),
    Memory.read_write_same h, hiByte_loByte]

theorem Memory.read16_write16_other (m : Memory) {a b : Nat} (v : Half) (hab : b + 2 ≤ a ∨ a + 2 ≤ b) :
    (m.write16 a v).read16 b = m.read16 b := by
  simp only [Memory.read16]
  rw [Memory.read_write16_other _ _ (by omega) (by omega), Memory.read_write16_other _ _ (by omega) (by omega)]

theorem Memory.read32_write32_same {m : Memory} (h : m.wf = true) {a : Nat} (ha : a + 3 < 0x400000) (v : Long) :
    (m.write32 a v).read32 a = v := by
  have h1 : (m.write16 a (hiHalf v)).wf = true := Memory.wf_write16 _ h (by simp only [Config.ramSize]; omega)
  have e2 : (m.write32 a v).read16 (a + 2) = loHalf v :=
    Memory.read16_write16_same h1 (by simp only [Config.ramSize]; omega) _
  have e1 : (m.write32 a v).read16 a = hiHalf v :=
    (Memory.read16_write16_other _ _ (by omega)).trans
      (Memory.read16_write16_same h (by simp only [Config.ramSize]; omega) _)
  simp only [Memory.read32, e1, e2, hiHalf_loHalf]

theorem Memory.read_write32_other (m : Memory) {a b : Nat} (v : Long) (hb : b < a ∨ a + 4 ≤ b) :
    (m.write32 a v).read b = m.read b := by
  simp only [Memory.write32]
  rw [Memory.read_write16_other _ _ (by omega) (by omega), Memory.read_write16_other _ _ (by omega) (by omega)]

theorem Memory.read_writeBytes_other (m : Memory) (vs : List Byte) {a b : Nat}
    (hb : b < a ∨ a + vs.length ≤ b) : (m.writeBytes a vs).read b = m.read b := by
  induction vs generalizing m a with
  | nil => rfl
  | cons v vs ih =>
    simp only [List.length_cons] at hb
    simp only [Memory.writeBytes]
    rw [ih _ (by omega), Memory.read_write_other _ _ (by omega)]

theorem Memory.read_writeBytes_same {m : Memory} (h : m.wf = true) (vs : List Byte) (a : Nat)
    (ha : a + vs.length ≤ Config.ramSize) {k : Nat} (hk : k < vs.length) : (m.writeBytes a vs).read (a + k) = vs.getD k 0 := by
  induction vs generalizing m a k with
  | nil => exact absurd hk (Nat.not_lt_zero k)
  | cons v vs ih =>
    rw [List.length_cons] at ha hk
    cases k with
    | zero => exact (Memory.read_writeBytes_other _ vs (.inl (Nat.lt_succ_self a))).trans (Memory.read_write_same h a v)
    | succ k =>
      rw [← Nat.add_assoc, Nat.add_right_comm]
      exact ih (Memory.wf_write v h (by omega)) (a + 1) (by omega) (Nat.lt_of_succ_lt_succ hk)

theorem Memory.wf_atReset : Memory.atReset.wf = true := by decide

/-- RAM after reset is zero outside the sentinels and the cookies. -/
theorem Memory.read_atReset_other {a : Nat}
    (h : a < 0x500 ∨ (0x504 ≤ a ∧ a < 0x5A0) ∨ (0x5A4 ≤ a ∧ a < 0x600) ∨ 0x618 ≤ a) : Memory.atReset.read a = 0 := by
  simp only [Memory.atReset, Memory.read]
  repeat rw [if_neg (by omega)]
  rfl

end Sys2Proof.Machine
end

