-- ==== Sys2Proof/Laws/State.lean ====
section
/-! SUPPORT. One lemma for each field and each update of the state, and for the per-voice and per-timer
values, so that no later proof unfolds a record update. -/

namespace Sys2Proof.Machine

open Sys2Proof

/-! ## `State.withMem` -/

@[simp] theorem State.withMem_params (s : State) (m : Memory) : (s.withMem m).params = s.params := rfl
@[simp] theorem State.withMem_started (s : State) (m : Memory) : (s.withMem m).started = s.started := rfl
@[simp] theorem State.withMem_hostRate (s : State) (m : Memory) : (s.withMem m).hostRate = s.hostRate := rfl
@[simp] theorem State.withMem_psg (s : State) (m : Memory) : (s.withMem m).psg = s.psg := rfl
@[simp] theorem State.withMem_mfp (s : State) (m : Memory) : (s.withMem m).mfp = s.mfp := rfl
@[simp] theorem State.withMem_dma (s : State) (m : Memory) : (s.withMem m).dma = s.dma := rfl
@[simp] theorem State.withMem_mem (s : State) (m : Memory) : (s.withMem m).mem = m := rfl
@[simp] theorem State.withMem_exit (s : State) (m : Memory) : (s.withMem m).exit = s.exit := rfl
@[simp] theorem State.withMem_exitInfo (s : State) (m : Memory) : (s.withMem m).exitInfo = s.exitInfo := rfl
@[simp] theorem State.withMem_bump (s : State) (m : Memory) : (s.withMem m).bump = s.bump := rfl
@[simp] theorem State.withMem_busy (s : State) (m : Memory) : (s.withMem m).busy = s.busy := rfl
@[simp] theorem State.withMem_irqFailed (s : State) (m : Memory) : (s.withMem m).irqFailed = s.irqFailed := rfl
@[simp] theorem State.withMem_sessionFault (s : State) (m : Memory) : (s.withMem m).sessionFault = s.sessionFault := rfl
@[simp] theorem State.withMem_faultCode (s : State) (m : Memory) : (s.withMem m).faultCode = s.faultCode := rfl
@[simp] theorem State.withMem_faultInfo (s : State) (m : Memory) : (s.withMem m).faultInfo = s.faultInfo := rfl
@[simp] theorem State.withMem_seq (s : State) (m : Memory) : (s.withMem m).seq = s.seq := rfl
@[simp] theorem State.withMem_cpu (s : State) (m : Memory) : (s.withMem m).cpu = s.cpu := rfl
@[simp] theorem State.withMem_run (s : State) (m : Memory) : (s.withMem m).run = s.run := rfl
@[simp] theorem State.withMem_oob (s : State) (m : Memory) : (s.withMem m).oob = s.oob := rfl
@[simp] theorem State.withMem_inputs (s : State) (m : Memory) : (s.withMem m).inputs = s.inputs := rfl
@[simp] theorem State.withMem_out (s : State) (m : Memory) : (s.withMem m).out = s.out := rfl

/-! ## `State.withPsg` -/

@[simp] theorem State.withPsg_params (s : State) (p : Psg) : (s.withPsg p).params = s.params := rfl
@[simp] theorem State.withPsg_started (s : State) (p : Psg) : (s.withPsg p).started = s.started := rfl
@[simp] theorem State.withPsg_hostRate (s : State) (p : Psg) : (s.withPsg p).hostRate = s.hostRate := rfl
@[simp] theorem State.withPsg_psg (s : State) (p : Psg) : (s.withPsg p).psg = p := rfl
@[simp] theorem State.withPsg_mfp (s : State) (p : Psg) : (s.withPsg p).mfp = s.mfp := rfl
@[simp] theorem State.withPsg_dma (s : State) (p : Psg) : (s.withPsg p).dma = s.dma := rfl
@[simp] theorem State.withPsg_mem (s : State) (p : Psg) : (s.withPsg p).mem = s.mem := rfl
@[simp] theorem State.withPsg_exit (s : State) (p : Psg) : (s.withPsg p).exit = s.exit := rfl
@[simp] theorem State.withPsg_exitInfo (s : State) (p : Psg) : (s.withPsg p).exitInfo = s.exitInfo := rfl
@[simp] theorem State.withPsg_bump (s : State) (p : Psg) : (s.withPsg p).bump = s.bump := rfl
@[simp] theorem State.withPsg_busy (s : State) (p : Psg) : (s.withPsg p).busy = s.busy := rfl
@[simp] theorem State.withPsg_irqFailed (s : State) (p : Psg) : (s.withPsg p).irqFailed = s.irqFailed := rfl
@[simp] theorem State.withPsg_sessionFault (s : State) (p : Psg) : (s.withPsg p).sessionFault = s.sessionFault := rfl
@[simp] theorem State.withPsg_faultCode (s : State) (p : Psg) : (s.withPsg p).faultCode = s.faultCode := rfl
@[simp] theorem State.withPsg_faultInfo (s : State) (p : Psg) : (s.withPsg p).faultInfo = s.faultInfo := rfl
@[simp] theorem State.withPsg_seq (s : State) (p : Psg) : (s.withPsg p).seq = s.seq := rfl
@[simp] theorem State.withPsg_cpu (s : State) (p : Psg) : (s.withPsg p).cpu = s.cpu := rfl
@[simp] theorem State.withPsg_run (s : State) (p : Psg) : (s.withPsg p).run = s.run := rfl
@[simp] theorem State.withPsg_oob (s : State) (p : Psg) : (s.withPsg p).oob = s.oob := rfl
@[simp] theorem State.withPsg_inputs (s : State) (p : Psg) : (s.withPsg p).inputs = s.inputs := rfl
@[simp] theorem State.withPsg_out (s : State) (p : Psg) : (s.withPsg p).out = s.out := rfl

/-! ## `State.withMfp` -/

@[simp] theorem State.withMfp_params (s : State) (m : Mfp) : (s.withMfp m).params = s.params := rfl
@[simp] theorem State.withMfp_started (s : State) (m : Mfp) : (s.withMfp m).started = s.started := rfl
@[simp] theorem State.withMfp_hostRate (s : State) (m : Mfp) : (s.withMfp m).hostRate = s.hostRate := rfl
@[simp] theorem State.withMfp_psg (s : State) (m : Mfp) : (s.withMfp m).psg = s.psg := rfl
@[simp] theorem State.withMfp_mfp (s : State) (m : Mfp) : (s.withMfp m).mfp = m := rfl
@[simp] theorem State.withMfp_dma (s : State) (m : Mfp) : (s.withMfp m).dma = s.dma := rfl
@[simp] theorem State.withMfp_mem (s : State) (m : Mfp) : (s.withMfp m).mem = s.mem := rfl
@[simp] theorem State.withMfp_exit (s : State) (m : Mfp) : (s.withMfp m).exit = s.exit := rfl
@[simp] theorem State.withMfp_exitInfo (s : State) (m : Mfp) : (s.withMfp m).exitInfo = s.exitInfo := rfl
@[simp] theorem State.withMfp_bump (s : State) (m : Mfp) : (s.withMfp m).bump = s.bump := rfl
@[simp] theorem State.withMfp_busy (s : State) (m : Mfp) : (s.withMfp m).busy = s.busy := rfl
@[simp] theorem State.withMfp_irqFailed (s : State) (m : Mfp) : (s.withMfp m).irqFailed = s.irqFailed := rfl
@[simp] theorem State.withMfp_sessionFault (s : State) (m : Mfp) : (s.withMfp m).sessionFault = s.sessionFault := rfl
@[simp] theorem State.withMfp_faultCode (s : State) (m : Mfp) : (s.withMfp m).faultCode = s.faultCode := rfl
@[simp] theorem State.withMfp_faultInfo (s : State) (m : Mfp) : (s.withMfp m).faultInfo = s.faultInfo := rfl
@[simp] theorem State.withMfp_seq (s : State) (m : Mfp) : (s.withMfp m).seq = s.seq := rfl
@[simp] theorem State.withMfp_cpu (s : State) (m : Mfp) : (s.withMfp m).cpu = s.cpu := rfl
@[simp] theorem State.withMfp_run (s : State) (m : Mfp) : (s.withMfp m).run = s.run := rfl
@[simp] theorem State.withMfp_oob (s : State) (m : Mfp) : (s.withMfp m).oob = s.oob := rfl
@[simp] theorem State.withMfp_inputs (s : State) (m : Mfp) : (s.withMfp m).inputs = s.inputs := rfl
@[simp] theorem State.withMfp_out (s : State) (m : Mfp) : (s.withMfp m).out = s.out := rfl

/-! ## `State.withDma` -/

@[simp] theorem State.withDma_params (s : State) (d : Dma) : (s.withDma d).params = s.params := rfl
@[simp] theorem State.withDma_started (s : State) (d : Dma) : (s.withDma d).started = s.started := rfl
@[simp] theorem State.withDma_hostRate (s : State) (d : Dma) : (s.withDma d).hostRate = s.hostRate := rfl
@[simp] theorem State.withDma_psg (s : State) (d : Dma) : (s.withDma d).psg = s.psg := rfl
@[simp] theorem State.withDma_mfp (s : State) (d : Dma) : (s.withDma d).mfp = s.mfp := rfl
@[simp] theorem State.withDma_dma (s : State) (d : Dma) : (s.withDma d).dma = d := rfl
@[simp] theorem State.withDma_mem (s : State) (d : Dma) : (s.withDma d).mem = s.mem := rfl
@[simp] theorem State.withDma_exit (s : State) (d : Dma) : (s.withDma d).exit = s.exit := rfl
@[simp] theorem State.withDma_exitInfo (s : State) (d : Dma) : (s.withDma d).exitInfo = s.exitInfo := rfl
@[simp] theorem State.withDma_bump (s : State) (d : Dma) : (s.withDma d).bump = s.bump := rfl
@[simp] theorem State.withDma_busy (s : State) (d : Dma) : (s.withDma d).busy = s.busy := rfl
@[simp] theorem State.withDma_irqFailed (s : State) (d : Dma) : (s.withDma d).irqFailed = s.irqFailed := rfl
@[simp] theorem State.withDma_sessionFault (s : State) (d : Dma) : (s.withDma d).sessionFault = s.sessionFault := rfl
@[simp] theorem State.withDma_faultCode (s : State) (d : Dma) : (s.withDma d).faultCode = s.faultCode := rfl
@[simp] theorem State.withDma_faultInfo (s : State) (d : Dma) : (s.withDma d).faultInfo = s.faultInfo := rfl
@[simp] theorem State.withDma_seq (s : State) (d : Dma) : (s.withDma d).seq = s.seq := rfl
@[simp] theorem State.withDma_cpu (s : State) (d : Dma) : (s.withDma d).cpu = s.cpu := rfl
@[simp] theorem State.withDma_run (s : State) (d : Dma) : (s.withDma d).run = s.run := rfl
@[simp] theorem State.withDma_oob (s : State) (d : Dma) : (s.withDma d).oob = s.oob := rfl
@[simp] theorem State.withDma_inputs (s : State) (d : Dma) : (s.withDma d).inputs = s.inputs := rfl
@[simp] theorem State.withDma_out (s : State) (d : Dma) : (s.withDma d).out = s.out := rfl

/-! ## `State.withCpu` -/

@[simp] theorem State.withCpu_params (s : State) (c : CpuPort) : (s.withCpu c).params = s.params := rfl
@[simp] theorem State.withCpu_started (s : State) (c : CpuPort) : (s.withCpu c).started = s.started := rfl
@[simp] theorem State.withCpu_hostRate (s : State) (c : CpuPort) : (s.withCpu c).hostRate = s.hostRate := rfl
@[simp] theorem State.withCpu_psg (s : State) (c : CpuPort) : (s.withCpu c).psg = s.psg := rfl
@[simp] theorem State.withCpu_mfp (s : State) (c : CpuPort) : (s.withCpu c).mfp = s.mfp := rfl
@[simp] theorem State.withCpu_dma (s : State) (c : CpuPort) : (s.withCpu c).dma = s.dma := rfl
@[simp] theorem State.withCpu_mem (s : State) (c : CpuPort) : (s.withCpu c).mem = s.mem := rfl
@[simp] theorem State.withCpu_exit (s : State) (c : CpuPort) : (s.withCpu c).exit = s.exit := rfl
@[simp] theorem State.withCpu_exitInfo (s : State) (c : CpuPort) : (s.withCpu c).exitInfo = s.exitInfo := rfl
@[simp] theorem State.withCpu_bump (s : State) (c : CpuPort) : (s.withCpu c).bump = s.bump := rfl
@[simp] theorem State.withCpu_busy (s : State) (c : CpuPort) : (s.withCpu c).busy = s.busy := rfl
@[simp] theorem State.withCpu_irqFailed (s : State) (c : CpuPort) : (s.withCpu c).irqFailed = s.irqFailed := rfl
@[simp] theorem State.withCpu_sessionFault (s : State) (c : CpuPort) : (s.withCpu c).sessionFault = s.sessionFault := rfl
@[simp] theorem State.withCpu_faultCode (s : State) (c : CpuPort) : (s.withCpu c).faultCode = s.faultCode := rfl
@[simp] theorem State.withCpu_faultInfo (s : State) (c : CpuPort) : (s.withCpu c).faultInfo = s.faultInfo := rfl
@[simp] theorem State.withCpu_seq (s : State) (c : CpuPort) : (s.withCpu c).seq = s.seq := rfl
@[simp] theorem State.withCpu_cpu (s : State) (c : CpuPort) : (s.withCpu c).cpu = c := rfl
@[simp] theorem State.withCpu_run (s : State) (c : CpuPort) : (s.withCpu c).run = s.run := rfl
@[simp] theorem State.withCpu_oob (s : State) (c : CpuPort) : (s.withCpu c).oob = s.oob := rfl
@[simp] theorem State.withCpu_inputs (s : State) (c : CpuPort) : (s.withCpu c).inputs = s.inputs := rfl
@[simp] theorem State.withCpu_out (s : State) (c : CpuPort) : (s.withCpu c).out = s.out := rfl

/-! ## `State.withBus` -/

@[simp] theorem State.withBus_params (s : State) (b : BusData) : (s.withBus b).params = s.params := rfl
@[simp] theorem State.withBus_started (s : State) (b : BusData) : (s.withBus b).started = s.started := rfl
@[simp] theorem State.withBus_hostRate (s : State) (b : BusData) : (s.withBus b).hostRate = s.hostRate := rfl
@[simp] theorem State.withBus_psg (s : State) (b : BusData) : (s.withBus b).psg = s.psg := rfl
@[simp] theorem State.withBus_mfp (s : State) (b : BusData) : (s.withBus b).mfp = s.mfp := rfl
@[simp] theorem State.withBus_dma (s : State) (b : BusData) : (s.withBus b).dma = s.dma := rfl
@[simp] theorem State.withBus_mem (s : State) (b : BusData) : (s.withBus b).mem = s.mem := rfl
@[simp] theorem State.withBus_exit (s : State) (b : BusData) : (s.withBus b).exit = s.exit := rfl
@[simp] theorem State.withBus_exitInfo (s : State) (b : BusData) : (s.withBus b).exitInfo = s.exitInfo := rfl
@[simp] theorem State.withBus_bump (s : State) (b : BusData) : (s.withBus b).bump = s.bump := rfl
@[simp] theorem State.withBus_busy (s : State) (b : BusData) : (s.withBus b).busy = s.busy := rfl
@[simp] theorem State.withBus_irqFailed (s : State) (b : BusData) : (s.withBus b).irqFailed = s.irqFailed := rfl
@[simp] theorem State.withBus_sessionFault (s : State) (b : BusData) : (s.withBus b).sessionFault = s.sessionFault := rfl
@[simp] theorem State.withBus_faultCode (s : State) (b : BusData) : (s.withBus b).faultCode = s.faultCode := rfl
@[simp] theorem State.withBus_faultInfo (s : State) (b : BusData) : (s.withBus b).faultInfo = s.faultInfo := rfl
@[simp] theorem State.withBus_seq (s : State) (b : BusData) : (s.withBus b).seq = s.seq := rfl
@[simp] theorem State.withBus_cpu (s : State) (b : BusData) : (s.withBus b).cpu = s.cpu := rfl
@[simp] theorem State.withBus_run (s : State) (b : BusData) : (s.withBus b).run = s.run := rfl
@[simp] theorem State.withBus_oob (s : State) (b : BusData) : (s.withBus b).oob = s.oob := rfl
@[simp] theorem State.withBus_inputs (s : State) (b : BusData) : (s.withBus b).inputs = s.inputs := rfl
@[simp] theorem State.withBus_out (s : State) (b : BusData) : (s.withBus b).out = { s.out with bus := b } := rfl

/-! ## `State.answer` -/

@[simp] theorem State.answer_params (s : State) (r : Result) (v : Value) : (s.answer r v).params = s.params := rfl
@[simp] theorem State.answer_started (s : State) (r : Result) (v : Value) : (s.answer r v).started = s.started := rfl
@[simp] theorem State.answer_hostRate (s : State) (r : Result) (v : Value) : (s.answer r v).hostRate = s.hostRate := rfl
@[simp] theorem State.answer_psg (s : State) (r : Result) (v : Value) : (s.answer r v).psg = s.psg := rfl
@[simp] theorem State.answer_mfp (s : State) (r : Result) (v : Value) : (s.answer r v).mfp = s.mfp := rfl
@[simp] theorem State.answer_dma (s : State) (r : Result) (v : Value) : (s.answer r v).dma = s.dma := rfl
@[simp] theorem State.answer_mem (s : State) (r : Result) (v : Value) : (s.answer r v).mem = s.mem := rfl
@[simp] theorem State.answer_exit (s : State) (r : Result) (v : Value) : (s.answer r v).exit = s.exit := rfl
@[simp] theorem State.answer_exitInfo (s : State) (r : Result) (v : Value) : (s.answer r v).exitInfo = s.exitInfo := rfl
@[simp] theorem State.answer_bump (s : State) (r : Result) (v : Value) : (s.answer r v).bump = s.bump := rfl
@[simp] theorem State.answer_busy (s : State) (r : Result) (v : Value) : (s.answer r v).busy = s.busy := rfl
@[simp] theorem State.answer_irqFailed (s : State) (r : Result) (v : Value) : (s.answer r v).irqFailed = s.irqFailed := rfl
@[simp] theorem State.answer_sessionFault (s : State) (r : Result) (v : Value) : (s.answer r v).sessionFault = s.sessionFault := rfl
@[simp] theorem State.answer_faultCode (s : State) (r : Result) (v : Value) : (s.answer r v).faultCode = s.faultCode := rfl
@[simp] theorem State.answer_faultInfo (s : State) (r : Result) (v : Value) : (s.answer r v).faultInfo = s.faultInfo := rfl
@[simp] theorem State.answer_seq (s : State) (r : Result) (v : Value) : (s.answer r v).seq = s.seq := rfl
@[simp] theorem State.answer_cpu (s : State) (r : Result) (v : Value) : (s.answer r v).cpu = s.cpu := rfl
@[simp] theorem State.answer_run (s : State) (r : Result) (v : Value) : (s.answer r v).run = s.run := rfl
@[simp] theorem State.answer_oob (s : State) (r : Result) (v : Value) : (s.answer r v).oob = s.oob := rfl
@[simp] theorem State.answer_inputs (s : State) (r : Result) (v : Value) : (s.answer r v).inputs = s.inputs := rfl
@[simp] theorem State.answer_out (s : State) (r : Result) (v : Value) : (s.answer r v).out = { s.out with result := r, value := v } := rfl

/-! ## Per-voice and per-timer values -/

@[simp] theorem PerVoice.get_set_same {α : Type} (p : PerVoice α) (v : Voice) (x : α) :
    (p.set v x).get v = x := by
  cases v <;> rfl

theorem PerVoice.get_set_other {α : Type} (p : PerVoice α) {v w : Voice} (h : w ≠ v) (x : α) :
    (p.set v x).get w = p.get w := by
  cases v <;> cases w <;> first | rfl | exact absurd rfl h

@[simp] theorem PerVoice.get_fill {α : Type} (x : α) (v : Voice) : (PerVoice.fill x).get v = x := by
  cases v <;> rfl

@[simp] theorem PerVoice.get_of {α : Type} (f : Voice → α) (v : Voice) : (PerVoice.of f).get v = f v := by
  cases v <;> rfl

theorem PerVoice.ext_get {α : Type} {p q : PerVoice α} (h : ∀ v, p.get v = q.get v) : p = q := by
  cases p; cases q
  have ha := h .a; have hb := h .b; have hc := h .c
  simp only [PerVoice.get] at ha hb hc
  simp [ha, hb, hc]

@[simp] theorem PerTimer.get_set_same {α : Type} (p : PerTimer α) (t : Timer) (x : α) :
    (p.set t x).get t = x := by
  cases t <;> rfl

theorem PerTimer.get_set_other {α : Type} (p : PerTimer α) {t u : Timer} (h : u ≠ t) (x : α) :
    (p.set t x).get u = p.get u := by
  cases t <;> cases u <;> first | rfl | exact absurd rfl h

@[simp] theorem PerTimer.get_fill {α : Type} (x : α) (t : Timer) : (PerTimer.fill x).get t = x := by
  cases t <;> rfl

theorem PerTimer.ext_get {α : Type} {p q : PerTimer α} (h : ∀ t, p.get t = q.get t) : p = q := by
  cases p; cases q
  have ha := h .a; have hb := h .b; have hc := h .c; have hd := h .d
  simp only [PerTimer.get] at ha hb hc hd
  simp [ha, hb, hc, hd]

/-! ## Exceptions -/

/-- What raising a condition does: the first one of a run stands (60 R400). -/
theorem State.raise_cases (s : State) (c : ExitCode) (info : Long) :
    (s.exit = .none ∧ s.raise c info = { s with exit := c, exitInfo := info }) ∨
      (s.exit ≠ .none ∧ s.raise c info = s) := by
  unfold State.raise
  split
  · exact .inl ⟨‹_›, rfl⟩
  · exact .inr ⟨‹_›, rfl⟩

/-- What leaving a run does (60 R402). -/
theorem State.leaveRun_cases (s : State) :
    (s.exit.fatal = true ∧ s.leaveRun =
        { s with busy := false, run := .idle, sessionFault := true, faultCode := s.exit, faultInfo := s.exitInfo }) ∨
      (s.exit.fatal = false ∧ s.leaveRun = { s with busy := false, run := .idle }) := by
  unfold State.leaveRun
  by_cases h : s.exit.fatal = true
  · exact .inl ⟨h, by simp [h]⟩
  · exact .inr ⟨by simpa using h, by simp [h]⟩

/-- Entering a run touches the frame, the vector, the CPU port, the exit condition and the run record;
the rest stays. -/
theorem State.enterRun_eq (s : State) (c : Caller) (entry : Addr) (path : Path) (frames : Nat) (d0 : Option Long) :
    s.enterRun c entry path frames d0 =
      let m := (s.mem.pushFrame path).setVector (frameBase path) entry
      { s with
        busy := true, exit := .none, exitInfo := 0, mem := m, run := ⟨c, frames⟩,
        cpu := ⟨m.read32 0, m.read32 4, 0x2700, d0⟩,
        out := { s.out with result := .pending, value := .none } } := rfl

/-- A host command is performed on a started, idle machine and refused on any other. -/
theorem State.command_cases (s : State) (f : State → State) :
    (s.started = true ∧ s.busy = false ∧ s.command f = .next (f s)) ∨
      ((s.started = false ∨ s.busy = true) ∧ s.command f = .next s.refuse) := by
  unfold State.command
  cases hs : s.started <;> cases hb : s.busy <;> simp

theorem State.command_idle {s : State} (hs : s.started = true) (hb : s.busy = false) (f : State → State) :
    s.command f = .next (f s) := by
  simp [State.command, hs, hb]

theorem State.command_busy {s : State} (hb : s.busy = true) (f : State → State) :
    s.command f = .next s.refuse := by
  simp [State.command, hb]

theorem State.callback_running {s : State} (hb : s.busy = true) (f : State → Host.Outcome State Fault Refusal) :
    s.callback f = f s := by
  simp [State.callback, hb]

end Sys2Proof.Machine
end

