-- ==== Sys2Proof/Laws/Step.lean ====
section
/-! SUPPORT. What a step can do, said once: the next state is reached from the state by a sequence of
moves, each the operation of one unit or of the driver. An invariant that every move keeps is kept by
every step (`Moves.keeps`, `step_moves`). -/

namespace Sys2Proof.Machine

open Sys2Proof

/-! ## The moves -/

/-- What the PSG can do in one move. -/
inductive PsgMove (q : Config.Params) (rate : Nat) (p : Psg) : Psg → Prop
  | select (b : Byte) : PsgMove q rate p (p.select b)
  | writeRegister (i v : Byte) : PsgMove q rate p (p.writeRegister i v)
  | insideTimerIrq (f : Bool) : PsgMove q rate p (p.insideTimerIrq f)
  | reset : PsgMove q rate p (Psg.resetOf q)
  | tick : PsgMove q rate p (p.tick Config.tables q)
  | sample : PsgMove q rate p (p.sample Config.tables q rate).1

/-- What the timer unit can do in one move. -/
inductive MfpMove (rate : Nat) (m : Mfp) : Mfp → Prop
  | write (r : MfpReg) (b : Byte) : MfpMove rate m (m.write r b)
  | tick (t : Timer) : MfpMove rate m (m.tick rate t)
  | acknowledge (t : Timer) : MfpMove rate m (m.acknowledge t)
  | event (t : Timer) : MfpMove rate m (m.event t)
  | reset : MfpMove rate m Mfp.resetAll

/-- What a write or a reset can do to the DMA unit in one move. -/
inductive DmaMove (d : Dma) : Dma → Prop
  | write (r : DmaReg) (b : Byte) : DmaMove d (d.write r b)
  | mwData (w : Half) : DmaMove d { d with mwData := w }
  | mwMask (w : Half) : DmaMove d { d with mwMask := w }
  | reset : DmaMove d Dma.resetAll

/-- Two states that differ only in the exit condition, `busy`, `irqFailed`, the sequencer's own
accumulators, the CPU port, the run record, the inputs and the outputs. -/
structure State.SameUnits (s t : State) : Prop where
  params       : t.params = s.params
  started      : t.started = s.started
  hostRate     : t.hostRate = s.hostRate
  psg          : t.psg = s.psg
  mfp          : t.mfp = s.mfp
  dma          : t.dma = s.dma
  mem          : t.mem = s.mem
  bump         : t.bump = s.bump
  sessionFault : t.sessionFault = s.sessionFault
  faultCode    : t.faultCode = s.faultCode
  faultInfo    : t.faultInfo = s.faultInfo
  loaded       : t.seq.loaded = s.seq.loaded
  subsongCount : t.seq.subsongCount = s.seq.subsongCount
  duration     : t.seq.duration = s.seq.duration
  tickRate     : t.seq.tickRate = s.seq.tickRate
  image        : t.seq.image = s.seq.image

/-- One move of the machine. -/
inductive Move : State → State → Prop
  | control {s t : State} (h : s.SameUnits t) : Move s t
  | ram (s : State) {a : Nat} (v : Byte) (h : a < Config.ramSize) : Move s (s.withMem (s.mem.write a v))
  | psg {s : State} {p : Psg} (h : PsgMove s.params s.hostRate s.psg p) : Move s (s.withPsg p)
  | mfp {s : State} {m : Mfp} (h : MfpMove s.hostRate s.mfp m) : Move s (s.withMfp m)
  | dma {s : State} {d : Dma} (h : DmaMove s.dma d) : Move s (s.withDma d)
  | dmaSample (s : State) :
      Move s ((s.withDma (dmaSample s.hostRate s.mem s.dma s.mfp).1.1).withMfp
        (dmaSample s.hostRate s.mem s.dma s.mfp).1.2)
  | malloc {s : State} {n : Nat} (h4 : n % 4 = 0) (h : s.bump.toNat + n ≤ Config.ramSize) :
      Move s { s with bump := s.bump + BitVec.ofNat 24 n }
  | leaveRun (s : State) : Move s s.leaveRun
  | startup (s : State) {rate : Nat} (h : Config.hostRateOk rate = true ∨ rate = s.hostRate) : Move s (s.startup rate)
  | unload (s : State) : Move s { s with seq := { s.seq with loaded := false } }
  | store {s : State} {m : SongModule} (h : m.acceptable = true) (secs : Long) :
      Move s { s with seq := { s.seq with
        loaded := true
        subsongCount := m.subsongCount
        duration := m.duration
        tickRate := m.tickRate
        image := m.image
        defaultDurationSeconds := secs } }

/-- A sequence of moves. -/
abbrev Moves : State → State → Prop := Relation.ReflTransGen Move

/-- An invariant of moves is an invariant of sequences of moves. -/
theorem Moves.keeps {P : State → Prop} (hP : ∀ s t, Move s t → P s → P t) {s t : State} (h : Moves s t) (hs : P s) :
    P t := by
  induction h with
  | refl => exact hs
  | tail _ h ih => exact hP _ _ h ih

theorem Move.moves {s t : State} (h : Move s t) : Moves s t := Relation.ReflTransGen.single h

theorem Moves.ports {s t u : State} (h : Moves s t) (hu : t.SameUnits u) : Moves s u := h.tail (.control hu)

theorem State.SameUnits.moves {s t : State} (h : s.SameUnits t) : Moves s t := (Move.control h).moves

theorem State.SameUnits.rfl (s : State) : s.SameUnits s :=
  ⟨Eq.refl _, Eq.refl _, Eq.refl _, Eq.refl _, Eq.refl _, Eq.refl _, Eq.refl _, Eq.refl _, Eq.refl _, Eq.refl _,
    Eq.refl _, Eq.refl _, Eq.refl _, Eq.refl _, Eq.refl _, Eq.refl _⟩

/-! ## The operations as moves -/

theorem moves_answer {s t : State} (h : Moves s t) (r : Result) (v : Value) : Moves s (t.answer r v) :=
  h.ports (by constructor <;> rfl)

theorem moves_withBus (s : State) (b : BusData) : Moves s (s.withBus b) :=
  State.SameUnits.moves (by constructor <;> rfl)

theorem sameUnits_raise (s : State) (c : ExitCode) (info : Long) : s.SameUnits (s.raise c info) := by
  obtain ⟨-, h⟩ | ⟨-, h⟩ := s.raise_cases c info <;> rw [h] <;> constructor <;> rfl

theorem sameUnits_violation (s : State) (addr : Nat) (b : BusData) : s.SameUnits (s.violation addr b) := by
  have h := sameUnits_raise s .addressViolation (BitVec.ofNat 32 addr)
  exact ⟨h.1, h.2, h.3, h.4, h.5, h.6, h.7, h.8, h.9, h.10, h.11, h.12, h.13, h.14, h.15, h.16⟩

theorem moves_violation (s : State) (addr : Nat) (b : BusData) : Moves s (s.violation addr b) :=
  (sameUnits_violation s addr b).moves

theorem moves_ram16 (s : State) {a : Nat} (v : Half) (h : a + 1 < Config.ramSize) :
    Moves s (s.withMem (s.mem.write16 a v)) :=
  .trans (Move.ram s (a := a) (hiByte v) (by omega)).moves (Move.ram _ (a := a + 1) (loByte v) h).moves

theorem moves_ram32 (s : State) {a : Nat} (v : Long) (h : a + 3 < Config.ramSize) :
    Moves s (s.withMem (s.mem.write32 a v)) :=
  .trans (moves_ram16 s (a := a) (hiHalf v) (by omega)) (moves_ram16 _ (a := a + 2) (loHalf v) (by omega))

theorem moves_ramBytes (s : State) (vs : List Byte) (a : Nat) (h : a + vs.length ≤ Config.ramSize) :
    Moves s (s.withMem (s.mem.writeBytes a vs)) := by
  induction vs generalizing s a with
  | nil => exact .refl
  | cons v vs ih =>
    simp only [List.length_cons] at h
    exact .trans (Move.ram s (a := a) v (by omega)).moves (ih (s.withMem (s.mem.write a v)) (a + 1) (by omega))

theorem regionOf_ram_lt (x : BitVec 22) : x.toNat < Config.ramSize := x.isLt

theorem psgMove_write8 (q : Config.Params) (rate : Nat) (p : Psg) (off : BitVec 8) (b : Byte) :
    PsgMove q rate p (p.write8 off b) := by
  unfold Psg.write8
  split
  · exact .writeRegister p.sel b
  · exact .select b

theorem moves_mfpWrite8 (s : State) (off : BitVec 6) (b : Byte) : Moves s (s.withMfp (s.mfp.write8 off b)) := by
  unfold Mfp.write8
  split
  · exact (Move.mfp (.write _ b)).moves
  · exact .refl

theorem moves_dmaWrite8 (s : State) (off : BitVec 6) (b : Byte) : Moves s (s.withDma (s.dma.write8 off b)) := by
  unfold Dma.write8
  split
  · exact (Move.dma (.write _ b)).moves
  · exact .refl

theorem moves_dmaWrite16 (s : State) (off : BitVec 6) (w : Half) : Moves s (s.withDma (s.dma.write16 off w)) := by
  unfold Dma.write16
  split
  · exact (Move.dma (.mwData w)).moves
  split
  · exact (Move.dma (.mwMask w)).moves
  · exact moves_dmaWrite8 s _ _

/-- A word write on the bus, its RAM address even. -/
theorem moves_memWrite16 (s : State) (a : Addr) (v : Half) (ha : a.getLsbD 0 = false) : Moves s (s.memWrite16 a v) := by
  unfold State.memWrite16 regionOf
  split_ifs with h1 h2 h3 h4
  · refine moves_ram16 s v ?_
    have e : (a.extractLsb' 0 22).toNat = a.toNat := by
      simp only [BitVec.extractLsb'_toNat, Nat.shiftRight_zero]
      exact Nat.mod_eq_of_lt h1
    have ho : a.toNat % 2 = 0 := by
      have := a.getLsbD_eq_getElem (i := 0) (by decide)
      simpa [BitVec.getLsbD, Nat.testBit_zero] using ha
    rw [e]
    simp only [Config.ramSize] at *
    omega
  · exact (Move.psg (psgMove_write8 _ _ _ _ _)).moves
  · exact moves_dmaWrite16 s _ _
  · exact moves_mfpWrite8 s _ _
  · exact .refl

/-! ## The driver's parts as moves -/

theorem moves_pulseReset (s : State) : Moves s s.pulseReset := State.SameUnits.moves (by constructor <;> rfl)

theorem moves_runMemory (s : State) (path : Path) (entry : Addr) :
    Moves s (s.withMem ((s.mem.pushFrame path).setVector (frameBase path) entry)) := by
  have hf : Moves s (s.withMem (s.mem.pushFrame path)) := by
    cases path with
    | rts => exact moves_ram32 s _ (by decide)
    | rte =>
      exact .trans (moves_ram16 s (a := frameBase .rte) 0x2700 (by decide))
        (moves_ram32 _ (a := frameBase .rte + 2) _ (by decide))
  exact .trans hf (.trans (moves_ram32 _ (a := 0) (BitVec.ofNat 32 (frameBase path)) (by decide))
    (moves_ram32 _ (a := 4) (entry.setWidth 32) (by decide)))

theorem moves_enterRun (s : State) (c : Caller) (entry : Addr) (path : Path) (frames : Nat) (d0 : Option Long) :
    Moves s (s.enterRun c entry path frames d0) :=
  (moves_runMemory s path entry).ports (by rw [State.enterRun_eq]; constructor <;> rfl)

theorem moves_dispatch (s : State) (t : Timer) (c : Caller) : Moves s (s.dispatch t c) :=
  .trans (Move.mfp (.acknowledge t)).moves
    (.trans (Move.psg (.insideTimerIrq true)).moves (moves_enterRun _ c _ _ _ _))

theorem moves_returnFromHandler (s : State) (ok : Bool) : Moves s (s.returnFromHandler ok) :=
  (Move.psg (.insideTimerIrq false)).moves.ports (by constructor <;> rfl)

theorem moves_mixSample (s : State) : Moves s s.mixSample.1 :=
  .trans (Move.psg .sample).moves (Move.dmaSample (s.withPsg (s.psg.sample Config.tables s.params s.hostRate).1)).moves

theorem moves_tickTimer (s : State) (t : Timer) : Moves s (s.tickTimer t) := (Move.mfp (.tick t)).moves

theorem moves_timerLoop (sample : Int) (r : Option Render) (ts : List Timer) (s : State) :
    Moves s (State.timerLoop sample r ts s) := by
  induction ts generalizing s with
  | nil => exact .refl
  | cons t ts ih =>
    unfold State.timerLoop
    split_ifs
    · exact .refl
    · exact .trans (moves_tickTimer s t) (moves_dispatch _ t _)
    · exact .trans (moves_tickTimer s t) (ih _)

theorem moves_startPlay (s : State) (r : Render) : Moves s (s.startPlay r) :=
  .trans (State.SameUnits.moves (s := s) (by constructor <;> rfl)) (moves_enterRun _ _ _ _ _ _)

theorem moves_pushSample (s : State) (x : Int) (d : Bool) : Moves s (s.pushSample x d) :=
  State.SameUnits.moves (by constructor <;> rfl)

theorem moves_advanceTick (s : State) : Moves s s.advanceTick := State.SameUnits.moves (by constructor <;> rfl)

theorem moves_renderLoop (n : Nat) (r : Render) (s : State) : Moves s (State.renderLoop n r s) := by
  induction n generalizing r s with
  | zero => exact moves_answer .refl _ _
  | succ n ih =>
    unfold State.renderLoop
    have hs : Moves s (State.timerLoop s.mixSample.2 (some r) allTimers s.mixSample.1) :=
      .trans (moves_mixSample s) (moves_timerLoop _ _ _ _)
    split_ifs with h1
    · exact moves_startPlay s r
    · simp only
      split_ifs
      · exact hs
      · exact moves_answer (.trans hs (moves_pushSample _ _ _)) _ _
      · exact .trans (.trans hs (moves_pushSample _ _ _)) (.trans (moves_advanceTick _) (ih _ _))

theorem moves_finishSample (x : Int) (r : Option Render) (s : State) : Moves s (State.finishSample x r s) := by
  cases r with
  | none => exact State.SameUnits.moves (by constructor <;> rfl)
  | some r =>
    unfold State.finishSample
    simp only
    split_ifs
    · exact moves_answer (moves_pushSample _ _ _) _ _
    · exact .trans (moves_pushSample _ _ _) (.trans (moves_advanceTick _) (moves_renderLoop _ _ _))

theorem moves_computeSample (s : State) : Moves s s.computeSample := by
  unfold State.computeSample
  have hs : Moves s (State.timerLoop s.mixSample.2 none allTimers s.mixSample.1) :=
    .trans (moves_mixSample s) (moves_timerLoop _ _ _ _)
  simp only
  split_ifs
  · exact hs
  · exact .trans hs (moves_finishSample _ _ _)

theorem moves_finishInit (s : State) (id : Nat) (ok : Bool) : Moves s (s.finishInit id ok) :=
  moves_answer (State.SameUnits.moves (by constructor <;> rfl)) _ _

theorem moves_resume (c : Caller) (ok : Bool) (s : State) : Moves s (State.resume c ok s) := by
  cases c with
  | host => exact moves_answer .refl _ _
  | init id => exact moves_finishInit s id ok
  | play r =>
    unfold State.resume
    split_ifs
    · exact moves_renderLoop _ _ _
    · exact moves_answer .refl _ _
  | irq rest x r =>
    unfold State.resume
    have hs : Moves s (State.timerLoop x r rest (s.returnFromHandler ok)) :=
      .trans (moves_returnFromHandler s ok) (moves_timerLoop _ _ _ _)
    simp only
    split_ifs
    · exact hs
    · exact .trans hs (moves_finishSample _ _ _)

theorem moves_agentReturn {s t : State} {cycles : Nat} (h : s.agentReturn cycles = .next t) : Moves s t := by
  unfold State.agentReturn at h
  split_ifs at h
  · cases h
    exact State.SameUnits.moves (by constructor <;> rfl)
  · cases h
    exact .trans (Move.leaveRun s).moves (moves_resume _ _ _)

/-! ## The commands and callbacks as moves -/

theorem moves_refuse (s : State) : Moves s s.refuse := moves_answer .refl _ _

theorem moves_command {s t : State} {f : State → State} (hf : ∀ u, Moves u (f u)) (h : s.command f = .next t) :
    Moves s t := by
  obtain ⟨-, -, e⟩ | ⟨-, e⟩ := s.command_cases f
  · rw [e] at h
    cases h
    exact hf s
  · rw [e] at h
    cases h
    exact moves_refuse s

theorem moves_cmdStartup {s t : State} {r : Long} (h : execCmdStartup r s = .next t) : Moves s t := by
  unfold execCmdStartup at h
  split_ifs at h with h1 h2
  · cases h; exact moves_refuse s
  · cases h; exact moves_answer (Move.startup s (.inl h2)).moves _ _
  · cases h; exact moves_refuse s

theorem moves_cmdLoad {s t : State} {d : Long} (h : execCmdLoad d s = .next t) : Moves s t := by
  unfold execCmdLoad at h
  split at h
  · cases h; exact moves_refuse s
  · split at h
    · cases h; exact moves_answer (Move.unload s).moves _ _
    · rename_i m _
      split_ifs at h with h2 h3
      · cases h; exact moves_answer (Move.unload s).moves _ _
      · cases h
        exact moves_answer (.trans (Move.store (s := s) (m := m) (by simpa using h2) d).moves (Move.startup _ (.inl h3)).moves) _ _
      · cases h; exact moves_refuse s

theorem moves_beginSubsong (s : State) (id : Long)
    (h : s.seq.image.length ≤ Config.ramSize - Config.loadAddr) : Moves s (s.beginSubsong id) :=
  .trans (Move.startup s (.inr rfl)).moves
    (.trans (moves_ramBytes (s.startup s.hostRate) s.seq.image Config.loadAddr
        (by simp only [Config.ramSize, Config.loadAddr] at *; omega)) (moves_enterRun _ _ _ _ _ _))

theorem moves_cmdInitSubSong {s t : State} {id : Long} (h : execCmdInitSubSong id s = .next t) : Moves s t := by
  refine moves_command (fun u => ?_) h
  split_ifs with hc
  · simp only [Bool.and_eq_true, decide_eq_true_eq] at hc
    exact moves_beginSubsong u id hc.2
  · exact moves_answer .refl _ _

theorem moves_cmdAudioRender {s t : State} {n : Long} (h : execCmdAudioRender n s = .next t) : Moves s t := by
  refine moves_command (fun u => ?_) h
  split_ifs
  · exact moves_answer (State.SameUnits.moves (by constructor <;> rfl)) _ _
  · exact moves_answer (State.SameUnits.moves (by constructor <;> rfl)) _ _
  · exact .trans (State.SameUnits.moves (s := u) (by constructor <;> rfl)) (moves_renderLoop _ _ _)

theorem moves_setD0 {s t : State} (h : Moves s t) (v : Long) : Moves s (t.setD0 v) :=
  h.ports (by constructor <;> rfl)

theorem moves_malloc (s : State) (size : Long) : Moves s (s.malloc size) := by
  unfold State.malloc
  split_ifs with h1 h2
  · exact moves_setD0 .refl _
  · exact (sameUnits_raise s _ _).moves
  · exact moves_setD0 (Move.malloc (by unfold roundedSize; omega) (by omega)).moves _

theorem moves_cmdPsgComputeNextSample {s t : State} (h : execCmdPsgComputeNextSample s = .next t) : Moves s t := by
  unfold execCmdPsgComputeNextSample at h
  exact moves_command (fun u => moves_answer (Move.psg .sample).moves _ _) h

theorem moves_cmdTimerTick {s t : State} {k : Timer} (h : execCmdTimerTick k s = .next t) : Moves s t := by
  unfold execCmdTimerTick at h
  exact moves_command (fun u => moves_answer (moves_tickTimer u k) _ _) h

theorem moves_callback {s t : State} {f : State → Host.Outcome State Fault Refusal}
    (hf : ∀ u, f s = .next u → Moves s u) (h : s.callback f = .next t) : Moves s t := by
  unfold State.callback at h
  split_ifs at h
  exact hf t h

theorem moves_cbGemdos {s t : State} {fn : Half} (h : execCbGemdos fn s = .next t) : Moves s t := by
  refine moves_callback (fun u hu => ?_) h
  split_ifs at hu
  · unfold State.mallocCall at hu
    simp only at hu
    split_ifs at hu <;> cases hu
    · exact (sameUnits_raise s _ _).moves
    · exact (sameUnits_raise s _ _).moves
    · exact moves_malloc s _
  · cases hu; exact moves_setD0 .refl _
  · cases hu; exact (sameUnits_raise s _ _).moves

theorem moves_cbReset {s t : State} {pc : Addr} (h : execCbReset pc s = .next t) : Moves s t := by
  refine moves_callback (fun u hu => ?_) h
  cases hu
  split_ifs
  · exact State.SameUnits.moves (by constructor <;> rfl)
  · exact .refl

/-! ## Every instruction and every step -/

/-- What a bus transaction of the table's RAM and device rows can do, whatever its operands. -/
theorem moves_ramWrW {addr : BitVec 22} (s : State) (v : Half) (ha : addr.getLsbD 0 = false) :
    Moves s (s.withMem (s.mem.write16 addr.toNat v)) := by
  refine moves_ram16 s v ?_
  have ho : addr.toNat % 2 = 0 := by simpa [BitVec.getLsbD, Nat.testBit_zero] using ha
  have := addr.isLt
  simp only [Config.ramSize]
  omega

theorem even_add_two {a : Addr} (ha : a.getLsbD 0 = false) : (a + 2).getLsbD 0 = false := by
  have h : a.toNat % 2 = 0 := by simpa [BitVec.getLsbD, Nat.testBit_zero] using ha
  have h2 : (a + 2).toNat = (a.toNat + 2) % 2 ^ 24 := BitVec.toNat_add a 2
  simp only [BitVec.getLsbD, Nat.testBit_zero, h2, decide_eq_false_iff_not]
  omega

theorem moves_busWrL {s t : State} {a : Addr} {v : Long} (ha : a.getLsbD 0 = false) (h : execBusWrL a v s = .next t) :
    Moves s t := by
  unfold execBusWrL at h
  split_ifs at h
  · cases h; exact moves_violation s _ _
  · cases h
    exact .trans (moves_memWrite16 s a _ ha) (moves_memWrite16 _ (a + 2) _ (even_add_two ha))

/-- The two RAM writes wider than a byte stand at an even address. -/
def storesEven : Instr → Bool
  | .busWrL addr _ => !addr.getLsbD 0
  | .ramWrW addr _ => !addr.getLsbD 0
  | _ => true

/-- Every instruction that answers a next state reaches it by moves. -/
theorem exec_moves {i : Instr} {s t : State} (hi : storesEven i = true) (h : exec i s = .next t) : Moves s t := by
  cases i with
  | addrviolA24 op addr => cases h; exact moves_violation s _ _
  | addrviolA25 op addr => cases h; exact moves_violation s _ _
  | addrviolA26 op addr => cases h; exact moves_violation s _ _
  | addrviolA27 op addr => cases h; exact moves_violation s _ _
  | busRdL addr =>
    simp only [exec, execBusRdL] at h
    split_ifs at h <;> cases h
    · exact moves_violation s _ _
    · exact moves_withBus s _
  | busWrL addr data => exact moves_busWrL (by simpa [storesEven] using hi) h
  | ramRdB addr => cases h; exact moves_withBus s _
  | ramRdW addr => cases h; exact moves_withBus s _
  | ramWrB addr data => cases h; exact (Move.ram s data (regionOf_ram_lt addr)).moves
  | ramWrW addr data => cases h; exact moves_ramWrW s data (by simpa [storesEven] using hi)
  | psgSelectB off b => cases h; exact (Move.psg (.select b)).moves
  | psgSelectW off b => cases h; exact (Move.psg (.select b)).moves
  | psgDataB off b => cases h; exact (Move.psg (.writeRegister _ b)).moves
  | psgDataW off b => cases h; exact (Move.psg (.writeRegister _ b)).moves
  | psgReadB off => cases h; exact moves_withBus s _
  | psgReadW off => cases h; exact moves_withBus s _
  | dmaWrCtrl b => cases h; exact (Move.dma (.write _ b)).moves
  | dmaWrStartH b => cases h; exact (Move.dma (.write _ b)).moves
  | dmaWrStartM b => cases h; exact (Move.dma (.write _ b)).moves
  | dmaWrStartL b => cases h; exact (Move.dma (.write _ b)).moves
  | dmaWrEndH b => cases h; exact (Move.dma (.write _ b)).moves
  | dmaWrEndM b => cases h; exact (Move.dma (.write _ b)).moves
  | dmaWrEndL b => cases h; exact (Move.dma (.write _ b)).moves
  | dmaWrMode b => cases h; exact (Move.dma (.write _ b)).moves
  | dmaWrMwdataB low b => cases h; exact (Move.dma (.write _ b)).moves
  | dmaWrMwmaskB low b => cases h; exact (Move.dma (.write _ b)).moves
  | dmaWrDropB off b => cases h; exact .refl
  | dmaWrMwdataW w => cases h; exact (Move.dma (.mwData w)).moves
  | dmaWrMwmaskW w => cases h; exact (Move.dma (.mwMask w)).moves
  | dmaWrW off w => cases h; exact moves_dmaWrite16 s off w
  | dmaRdB off => cases h; exact moves_withBus s _
  | dmaRdW off => cases h; exact moves_withBus s _
  | mfpWrGpip b => cases h; exact (Move.mfp (.write _ b)).moves
  | mfpWrAer b => cases h; exact (Move.mfp (.write _ b)).moves
  | mfpWrDdr b => cases h; exact (Move.mfp (.write _ b)).moves
  | mfpWrIera b => cases h; exact (Move.mfp (.write _ b)).moves
  | mfpWrIerb b => cases h; exact (Move.mfp (.write _ b)).moves
  | mfpWrIpra b => cases h; exact (Move.mfp (.write _ b)).moves
  | mfpWrIprb b => cases h; exact (Move.mfp (.write _ b)).moves
  | mfpWrIsra b => cases h; exact (Move.mfp (.write _ b)).moves
  | mfpWrIsrb b => cases h; exact (Move.mfp (.write _ b)).moves
  | mfpWrImra b => cases h; exact (Move.mfp (.write _ b)).moves
  | mfpWrImrb b => cases h; exact (Move.mfp (.write _ b)).moves
  | mfpWrVr b => cases h; exact (Move.mfp (.write _ b)).moves
  | mfpWrTacr b => cases h; exact (Move.mfp (.write _ b)).moves
  | mfpWrTbcr b => cases h; exact (Move.mfp (.write _ b)).moves
  | mfpWrTcdcr b => cases h; exact (Move.mfp (.write _ b)).moves
  | mfpWrTadr b => cases h; exact (Move.mfp (.write _ b)).moves
  | mfpWrTbdr b => cases h; exact (Move.mfp (.write _ b)).moves
  | mfpWrTcdr b => cases h; exact (Move.mfp (.write _ b)).moves
  | mfpWrTddr b => cases h; exact (Move.mfp (.write _ b)).moves
  | mfpWrScr b => cases h; exact (Move.mfp (.write _ b)).moves
  | mfpWrUcr b => cases h; exact (Move.mfp (.write _ b)).moves
  | mfpWrRsr b => cases h; exact (Move.mfp (.write _ b)).moves
  | mfpWrTsr b => cases h; exact (Move.mfp (.write _ b)).moves
  | mfpWrUdr b => cases h; exact (Move.mfp (.write _ b)).moves
  | mfpWrDropB off b => cases h; exact .refl
  | mfpWrW off w => cases h; exact moves_mfpWrite8 s (off + 1) (loByte w)
  | mfpRdB off => cases h; exact moves_withBus s _
  | mfpRdW off => cases h; exact moves_withBus s _
  | unmappedRd size addr =>
    cases size <;> cases h
    · exact moves_withBus s _
    · exact moves_withBus s _
  | unmappedWr data addr => cases h; exact .refl
  | cmdStartup r => exact moves_cmdStartup h
  | cmdLoad d => exact moves_cmdLoad h
  | cmdGetSubsongInfo id =>
    refine moves_command (fun u => ?_) (show execCmdGetSubsongInfo id s = .next t from h)
    split_ifs <;> exact moves_answer .refl _ _
  | cmdInitSubSong id => exact moves_cmdInitSubSong h
  | cmdAudioRender n => exact moves_cmdAudioRender h
  | cmdRunUntilReturn =>
    refine moves_command (fun u => ?_) (show execCmdRunUntilReturn s = .next t from h)
    split_ifs
    · exact moves_refuse u
    · exact moves_enterRun _ _ _ _ _ _
  | cmdComputeNextSample => exact moves_command moves_computeSample h
  | cmdPsgWriteRegister i v => exact moves_command (fun u => moves_answer (Move.psg (.writeRegister i v)).moves _ _) h
  | cmdPsgTick => exact moves_command (fun u => moves_answer (Move.psg .tick).moves _ _) h
  | cmdPsgComputeNextSample => exact moves_cmdPsgComputeNextSample h
  | cmdPsgInsideTimerIrq f =>
    exact moves_command (fun u => moves_answer (Move.psg (.insideTimerIrq f)).moves _ _) h
  | cmdPsgReset => exact moves_command (fun u => moves_answer (Move.psg .reset).moves _ _) h
  | cmdTimerTick k => exact moves_cmdTimerTick h
  | cmdTimerReset => exact moves_command (fun u => moves_answer (Move.mfp .reset).moves _ _) h
  | cmdTimerAcknowledge t => exact moves_command (fun u => moves_answer (Move.mfp (.acknowledge t)).moves _ _) h
  | cmdTimerEvent t => exact moves_command (fun u => moves_answer (Move.mfp (.event t)).moves _ _) h
  | cmdDmaComputeNextSample => exact moves_command (fun u => moves_answer (Move.dmaSample u).moves _ _) h
  | cmdDmaReset => exact moves_command (fun u => moves_answer (Move.dma .reset).moves _ _) h
  | cbReset pc => exact moves_cbReset (pc := pc) h
  | cbIllegal op =>
    refine moves_callback (fun u hu => ?_) (show execCbIllegal op s = .next t from h)
    cases hu
    exact (sameUnits_raise s _ _).moves
  | cbGemdos fn => exact moves_cbGemdos h

theorem storesEven_busRow {op : BusOp} {a : Addr} (h : (op.alignedAt (a.setWidth 28)) = true) :
    storesEven (busRow op a) = true := by
  cases op with
  | readLong => rfl
  | writeLong v => simpa [busRow, storesEven, BusOp.alignedAt] using h
  | readByte => simp only [busRow, readByteRow]; split <;> rfl
  | readWord => simp only [busRow, readWordRow]; split <;> rfl
  | writeByte v =>
    simp only [busRow, writeByteRow]
    split
    · rfl
    · split <;> rfl
    · rename_i off _
      cases DmaReg.ofOffset off with
      | none => rfl
      | some r => cases r <;> rfl
    · rename_i off _
      cases MfpReg.ofOffset off with
      | none => rfl
      | some r => cases r <;> rfl
    · rfl
  | writeWord v =>
    simp only [busRow, writeWordRow]
    split
    · rename_i x hx
      unfold regionOf at hx
      split_ifs at hx
      cases hx
      simpa [storesEven, BitVec.getLsbD_extractLsb', BusOp.alignedAt] using h
    · split <;> rfl
    · split_ifs <;> rfl
    · rfl
    · rfl

/-- What the decoder accepts is aligned where it stores more than a byte. -/
theorem storesEven_decode {w : TxWord} {i : Instr} (h : decode w = .ok i) : storesEven i = true := by
  have bus : ∀ {op : BusOp} {addr : WideAddr}, decodeBus op addr = .ok i → storesEven i = true := by
    intro op addr h
    unfold decodeBus at h
    split_ifs at h with h0 <;> cases h <;> try rfl
    refine storesEven_busRow ?_
    cases op <;> simp_all [BusOp.alignedAt]
  unfold decode at h
  split_ifs at h
  · split at h
    · exact bus h
    · cases h
  · split at h
    · exact bus h
    · cases h
  · unfold commandRow at h
    split at h <;> cases h <;> rfl
  · unfold callbackRow at h
    split at h <;> cases h <;> rfl

theorem moves_performWord {s t : State} {w : TxWord} (h : performWord w s = .next t) : Moves s t := by
  unfold performWord at h
  split at h
  · rename_i hd
    exact exec_moves (storesEven_decode hd) h
  · cases h

/-- Every step that answers a next state reaches it by moves. -/
theorem step_moves {s t : State} (h : step s = .next t) : Moves s t := by
  have drop : ∀ (i : List Input), Moves s { s with inputs := i } := fun i =>
    State.SameUnits.moves (by constructor <;> rfl)
  unfold step at h
  split at h
  · cases h; exact .refl
  · exact .trans (drop _) (moves_performWord h)
  · split_ifs at h
    exact .trans (drop _) (moves_performWord h)
  · cases h; exact State.SameUnits.moves (by constructor <;> rfl)
  · cases h; exact State.SameUnits.moves (by constructor <;> rfl)
  · exact .trans (drop _) (moves_agentReturn h)

end Sys2Proof.Machine
end

