-- ==== Sys2Proof/Laws/Psg.lean ====
section
/-! SUPPORT. The laws of the PSG: what a register write leaves alone, what a tick does to each generator,
what the loops of the down-sampler keep, and that every operation keeps the unit's invariant. -/

namespace Sys2Proof.Machine

open Sys2Proof

/-! ## Register writes -/

/-- A register write is one of five updates of the stored register (40 R134). -/
theorem Psg.writeReg_cases (p : Psg) (i : Fin 14) (v : Byte) :
    (∃ w, toneVoice i = some w ∧ p.writeReg i v = (p.setReg i v).updateTone w) ∨
      (toneVoice i = none ∧ i = 6 ∧ p.writeReg i v = (p.setReg i v).updateNoise) ∨
      (toneVoice i = none ∧ (i = 11 ∨ i = 12) ∧ p.writeReg i v = (p.setReg i v).updateEnvPeriod) ∨
      (toneVoice i = none ∧ i = 13 ∧ p.writeReg i v = (p.setReg i v).selectShape) ∨
      (toneVoice i = none ∧ (i = 7 ∨ i = 8 ∨ i = 9 ∨ i = 10) ∧ p.writeReg i v = p.setReg i v) := by
  match i with
  | 0 => exact .inl ⟨.a, rfl, rfl⟩
  | 1 => exact .inl ⟨.a, rfl, rfl⟩
  | 2 => exact .inl ⟨.b, rfl, rfl⟩
  | 3 => exact .inl ⟨.b, rfl, rfl⟩
  | 4 => exact .inl ⟨.c, rfl, rfl⟩
  | 5 => exact .inl ⟨.c, rfl, rfl⟩
  | 6 => exact .inr (.inl ⟨rfl, rfl, rfl⟩)
  | 7 => exact .inr (.inr (.inr (.inr ⟨rfl, .inl rfl, rfl⟩)))
  | 8 => exact .inr (.inr (.inr (.inr ⟨rfl, .inr (.inl rfl), rfl⟩)))
  | 9 => exact .inr (.inr (.inr (.inr ⟨rfl, .inr (.inr (.inl rfl)), rfl⟩)))
  | 10 => exact .inr (.inr (.inr (.inr ⟨rfl, .inr (.inr (.inr rfl)), rfl⟩)))
  | 11 => exact .inr (.inr (.inl ⟨rfl, .inl rfl, rfl⟩))
  | 12 => exact .inr (.inr (.inl ⟨rfl, .inr rfl, rfl⟩))
  | 13 => exact .inr (.inr (.inr (.inl ⟨rfl, rfl, rfl⟩)))

@[simp] theorem Psg.updateTone_sel (p : Psg) (w : Voice) : (p.updateTone w).sel = p.sel := by
  unfold Psg.updateTone; dsimp only; split <;> rfl
@[simp] theorem Psg.updateTone_toneCnt (p : Psg) (w : Voice) : (p.updateTone w).toneCnt = p.toneCnt := by
  unfold Psg.updateTone; dsimp only; split <;> rfl
@[simp] theorem Psg.updateTone_edge (p : Psg) (w : Voice) : (p.updateTone w).edge = p.edge := by
  unfold Psg.updateTone; dsimp only; split <;> rfl
@[simp] theorem Psg.updateTone_noiseCnt (p : Psg) (w : Voice) : (p.updateTone w).noiseCnt = p.noiseCnt := by
  unfold Psg.updateTone; dsimp only; split <;> rfl
@[simp] theorem Psg.updateTone_lfsr (p : Psg) (w : Voice) : (p.updateTone w).lfsr = p.lfsr := by
  unfold Psg.updateTone; dsimp only; split <;> rfl
@[simp] theorem Psg.updateTone_noiseBit (p : Psg) (w : Voice) : (p.updateTone w).noiseBit = p.noiseBit := by
  unfold Psg.updateTone; dsimp only; split <;> rfl
@[simp] theorem Psg.updateTone_envCnt (p : Psg) (w : Voice) : (p.updateTone w).envCnt = p.envCnt := by
  unfold Psg.updateTone; dsimp only; split <;> rfl
@[simp] theorem Psg.updateTone_half (p : Psg) (w : Voice) : (p.updateTone w).half = p.half := by
  unfold Psg.updateTone; dsimp only; split <;> rfl
@[simp] theorem Psg.updateTone_inside (p : Psg) (w : Voice) : (p.updateTone w).inside = p.inside := by
  unfold Psg.updateTone; dsimp only; split <;> rfl
@[simp] theorem Psg.updateTone_psgAcc (p : Psg) (w : Voice) : (p.updateTone w).psgAcc = p.psgAcc := by
  unfold Psg.updateTone; dsimp only; split <;> rfl
@[simp] theorem Psg.updateTone_level (p : Psg) (w : Voice) : (p.updateTone w).level = p.level := by
  unfold Psg.updateTone; dsimp only; split <;> rfl
@[simp] theorem Psg.updateTone_dcHist (p : Psg) (w : Voice) : (p.updateTone w).dcHist = p.dcHist := by
  unfold Psg.updateTone; dsimp only; split <;> rfl
@[simp] theorem Psg.updateTone_dcSum (p : Psg) (w : Voice) : (p.updateTone w).dcSum = p.dcSum := by
  unfold Psg.updateTone; dsimp only; split <;> rfl
@[simp] theorem Psg.updateTone_dcIdx (p : Psg) (w : Voice) : (p.updateTone w).dcIdx = p.dcIdx := by
  unfold Psg.updateTone; dsimp only; split <;> rfl
@[simp] theorem Psg.updateTone_voiceLvl (p : Psg) (w : Voice) : (p.updateTone w).voiceLvl = p.voiceLvl := by
  unfold Psg.updateTone; dsimp only; split <;> rfl
@[simp] theorem Psg.updateTone_regs (p : Psg) (w : Voice) : (p.updateTone w).regs = p.regs := by
  unfold Psg.updateTone; dsimp only; split <;> rfl
@[simp] theorem Psg.updateTone_noisePeriod (p : Psg) (w : Voice) : (p.updateTone w).noisePeriod = p.noisePeriod := by
  unfold Psg.updateTone; dsimp only; split <;> rfl
@[simp] theorem Psg.updateTone_envPeriod (p : Psg) (w : Voice) : (p.updateTone w).envPeriod = p.envPeriod := by
  unfold Psg.updateTone; dsimp only; split <;> rfl
@[simp] theorem Psg.updateTone_envTab (p : Psg) (w : Voice) : (p.updateTone w).envTab = p.envTab := by
  unfold Psg.updateTone; dsimp only; split <;> rfl
@[simp] theorem Psg.updateTone_envPos (p : Psg) (w : Voice) : (p.updateTone w).envPos = p.envPos := by
  unfold Psg.updateTone; dsimp only; split <;> rfl
@[simp] theorem Psg.updateTone_envAlt (p : Psg) (w : Voice) : (p.updateTone w).envAlt = p.envAlt := by
  unfold Psg.updateTone; dsimp only; split <;> rfl
@[simp] theorem Psg.updateTone_tonePeriod (p : Psg) (w : Voice) :
    (p.updateTone w).tonePeriod = p.tonePeriod.set w (tonePeriodOf p.regs w) := by
  unfold Psg.updateTone; dsimp only; split <;> rfl

@[simp] theorem Psg.writeReg_sel (p : Psg) (i : Fin 14) (v : Byte) : (p.writeReg i v).sel = p.sel := by
  obtain ⟨w, -, h⟩ | ⟨-, -, h⟩ | ⟨-, -, h⟩ | ⟨-, -, h⟩ | ⟨-, -, h⟩ := p.writeReg_cases i v <;> rw [h] <;>
    first | rfl | simp [Psg.setReg]
@[simp] theorem Psg.writeReg_toneCnt (p : Psg) (i : Fin 14) (v : Byte) : (p.writeReg i v).toneCnt = p.toneCnt := by
  obtain ⟨w, -, h⟩ | ⟨-, -, h⟩ | ⟨-, -, h⟩ | ⟨-, -, h⟩ | ⟨-, -, h⟩ := p.writeReg_cases i v <;> rw [h] <;>
    first | rfl | simp [Psg.setReg]
@[simp] theorem Psg.writeReg_edge (p : Psg) (i : Fin 14) (v : Byte) : (p.writeReg i v).edge = p.edge := by
  obtain ⟨w, -, h⟩ | ⟨-, -, h⟩ | ⟨-, -, h⟩ | ⟨-, -, h⟩ | ⟨-, -, h⟩ := p.writeReg_cases i v <;> rw [h] <;>
    first | rfl | simp [Psg.setReg]
@[simp] theorem Psg.writeReg_noiseCnt (p : Psg) (i : Fin 14) (v : Byte) : (p.writeReg i v).noiseCnt = p.noiseCnt := by
  obtain ⟨w, -, h⟩ | ⟨-, -, h⟩ | ⟨-, -, h⟩ | ⟨-, -, h⟩ | ⟨-, -, h⟩ := p.writeReg_cases i v <;> rw [h] <;>
    first | rfl | simp [Psg.setReg]
@[simp] theorem Psg.writeReg_lfsr (p : Psg) (i : Fin 14) (v : Byte) : (p.writeReg i v).lfsr = p.lfsr := by
  obtain ⟨w, -, h⟩ | ⟨-, -, h⟩ | ⟨-, -, h⟩ | ⟨-, -, h⟩ | ⟨-, -, h⟩ := p.writeReg_cases i v <;> rw [h] <;>
    first | rfl | simp [Psg.setReg]
@[simp] theorem Psg.writeReg_noiseBit (p : Psg) (i : Fin 14) (v : Byte) : (p.writeReg i v).noiseBit = p.noiseBit := by
  obtain ⟨w, -, h⟩ | ⟨-, -, h⟩ | ⟨-, -, h⟩ | ⟨-, -, h⟩ | ⟨-, -, h⟩ := p.writeReg_cases i v <;> rw [h] <;>
    first | rfl | simp [Psg.setReg]
@[simp] theorem Psg.writeReg_envCnt (p : Psg) (i : Fin 14) (v : Byte) : (p.writeReg i v).envCnt = p.envCnt := by
  obtain ⟨w, -, h⟩ | ⟨-, -, h⟩ | ⟨-, -, h⟩ | ⟨-, -, h⟩ | ⟨-, -, h⟩ := p.writeReg_cases i v <;> rw [h] <;>
    first | rfl | simp [Psg.setReg]
@[simp] theorem Psg.writeReg_half (p : Psg) (i : Fin 14) (v : Byte) : (p.writeReg i v).half = p.half := by
  obtain ⟨w, -, h⟩ | ⟨-, -, h⟩ | ⟨-, -, h⟩ | ⟨-, -, h⟩ | ⟨-, -, h⟩ := p.writeReg_cases i v <;> rw [h] <;>
    first | rfl | simp [Psg.setReg]
@[simp] theorem Psg.writeReg_inside (p : Psg) (i : Fin 14) (v : Byte) : (p.writeReg i v).inside = p.inside := by
  obtain ⟨w, -, h⟩ | ⟨-, -, h⟩ | ⟨-, -, h⟩ | ⟨-, -, h⟩ | ⟨-, -, h⟩ := p.writeReg_cases i v <;> rw [h] <;>
    first | rfl | simp [Psg.setReg]
@[simp] theorem Psg.writeReg_psgAcc (p : Psg) (i : Fin 14) (v : Byte) : (p.writeReg i v).psgAcc = p.psgAcc := by
  obtain ⟨w, -, h⟩ | ⟨-, -, h⟩ | ⟨-, -, h⟩ | ⟨-, -, h⟩ | ⟨-, -, h⟩ := p.writeReg_cases i v <;> rw [h] <;>
    first | rfl | simp [Psg.setReg]
@[simp] theorem Psg.writeReg_level (p : Psg) (i : Fin 14) (v : Byte) : (p.writeReg i v).level = p.level := by
  obtain ⟨w, -, h⟩ | ⟨-, -, h⟩ | ⟨-, -, h⟩ | ⟨-, -, h⟩ | ⟨-, -, h⟩ := p.writeReg_cases i v <;> rw [h] <;>
    first | rfl | simp [Psg.setReg]
@[simp] theorem Psg.writeReg_dcHist (p : Psg) (i : Fin 14) (v : Byte) : (p.writeReg i v).dcHist = p.dcHist := by
  obtain ⟨w, -, h⟩ | ⟨-, -, h⟩ | ⟨-, -, h⟩ | ⟨-, -, h⟩ | ⟨-, -, h⟩ := p.writeReg_cases i v <;> rw [h] <;>
    first | rfl | simp [Psg.setReg]
@[simp] theorem Psg.writeReg_dcSum (p : Psg) (i : Fin 14) (v : Byte) : (p.writeReg i v).dcSum = p.dcSum := by
  obtain ⟨w, -, h⟩ | ⟨-, -, h⟩ | ⟨-, -, h⟩ | ⟨-, -, h⟩ | ⟨-, -, h⟩ := p.writeReg_cases i v <;> rw [h] <;>
    first | rfl | simp [Psg.setReg]
@[simp] theorem Psg.writeReg_dcIdx (p : Psg) (i : Fin 14) (v : Byte) : (p.writeReg i v).dcIdx = p.dcIdx := by
  obtain ⟨w, -, h⟩ | ⟨-, -, h⟩ | ⟨-, -, h⟩ | ⟨-, -, h⟩ | ⟨-, -, h⟩ := p.writeReg_cases i v <;> rw [h] <;>
    first | rfl | simp [Psg.setReg]
@[simp] theorem Psg.writeReg_voiceLvl (p : Psg) (i : Fin 14) (v : Byte) : (p.writeReg i v).voiceLvl = p.voiceLvl := by
  obtain ⟨w, -, h⟩ | ⟨-, -, h⟩ | ⟨-, -, h⟩ | ⟨-, -, h⟩ | ⟨-, -, h⟩ := p.writeReg_cases i v <;> rw [h] <;>
    first | rfl | simp [Psg.setReg]
@[simp] theorem Psg.writeReg_regs (p : Psg) (i : Fin 14) (v : Byte) :
    (p.writeReg i v).regs = p.regs.set i (v &&& psgMask i) := by
  obtain ⟨w, -, h⟩ | ⟨-, -, h⟩ | ⟨-, -, h⟩ | ⟨-, -, h⟩ | ⟨-, -, h⟩ := p.writeReg_cases i v <;> rw [h] <;>
    first | rfl | simp [Psg.setReg]

/-- The stored registers after a write, one by one. -/
theorem Psg.writeReg_get (p : Psg) (i j : Fin 14) (v : Byte) :
    (p.writeReg i v).regs[j] = if i = j then v &&& psgMask i else p.regs[j] := by
  rw [Psg.writeReg_regs]
  simp only [Fin.getElem_fin, Vector.getElem_set]
  by_cases h : i = j
  · simp [h]
  · rw [if_neg (fun e => h (Fin.ext e)), if_neg h]

/-- A write of another register leaves a voice's period alone. -/
theorem tonePeriodOf_set {regs : Vector Byte 14} {i : Fin 14} {v : Byte} {w : Voice} (hf : i ≠ fineReg w)
    (hc : i ≠ coarseReg w) : tonePeriodOf (regs.set i v) w = tonePeriodOf regs w := by
  have key : ∀ j : Fin 14, i ≠ j → (regs.set i v)[j] = regs[j] := by
    intro j hj
    simp only [Fin.getElem_fin, Vector.getElem_set]
    rw [if_neg (fun e => hj (Fin.ext e))]
  simp only [tonePeriodOf, key _ hf, key _ hc]

/-- The voice a register belongs to is the one whose period it makes up. -/
theorem toneVoice_other {i : Fin 14} {w : Voice} (h : toneVoice i ≠ some w) : i ≠ fineReg w ∧ i ≠ coarseReg w := by
  constructor <;> rintro rfl <;> cases w <;> exact h rfl

/-- A write of another register leaves a register alone. -/
theorem regs_set_ne {regs : Vector Byte 14} {i j : Fin 14} {v : Byte} (h : i ≠ j) : (regs.set i v)[j] = regs[j] := by
  simp only [Fin.getElem_fin, Vector.getElem_set]
  rw [if_neg (fun e => h (Fin.ext e))]

/-- The periods after a write are those of the registers after it. -/
theorem Psg.writeReg_tonePeriod (p : Psg) (i : Fin 14) (v : Byte) (w : Voice)
    (h : p.tonePeriod.get w = tonePeriodOf p.regs w) :
    (p.writeReg i v).tonePeriod.get w = tonePeriodOf (p.writeReg i v).regs w := by
  rw [Psg.writeReg_regs]
  obtain ⟨u, hu, e⟩ | ⟨hu, -, e⟩ | ⟨hu, -, e⟩ | ⟨hu, -, e⟩ | ⟨hu, -, e⟩ := p.writeReg_cases i v <;> rw [e]
  · rw [Psg.updateTone_tonePeriod]
    by_cases hw : w = u
    · subst hw
      rw [PerVoice.get_set_same]
      rfl
    · rw [PerVoice.get_set_other _ hw]
      have := toneVoice_other (i := i) (w := w) (by rw [hu]; exact fun e => hw (Option.some.inj e).symm)
      rw [tonePeriodOf_set this.1 this.2]
      exact h
  all_goals
    have := toneVoice_other (i := i) (w := w) (by rw [hu]; exact nofun)
    rw [tonePeriodOf_set this.1 this.2]
    exact h

/-! ## The invariant: register writes, the interrupt boundary, reset -/

theorem psgMask_idem (i : Fin 14) (v : Byte) : (v &&& psgMask i) &&& psgMask i = v &&& psgMask i := by
  rw [BitVec.and_assoc, BitVec.and_self]

theorem Psg.Inv.select {rate : Nat} {p : Psg} (h : p.Inv rate) (b : Byte) : (p.select b).Inv rate :=
  ⟨h.regs, h.tonePeriod, h.noisePeriod, h.envPeriod, h.envTab, h.toneCnt, h.noiseCnt, h.envCnt, h.lfsr, h.noiseBit,
    h.envPos, h.envAlt, h.needReset, h.psgAcc, h.level, h.dcLength, h.dcBound, h.dcSum⟩

theorem Psg.writeReg_noisePeriod (p : Psg) (i : Fin 14) (v : Byte) (h : p.noisePeriod = noisePeriodOf p.regs) :
    (p.writeReg i v).noisePeriod = noisePeriodOf (p.writeReg i v).regs := by
  rw [Psg.writeReg_regs]
  have keep : i ≠ 6 → noisePeriodOf (p.regs.set i (v &&& psgMask i)) = noisePeriodOf p.regs := fun hi => by
    simp only [noisePeriodOf, regs_set_ne hi]
  obtain ⟨u, hu, e⟩ | ⟨hu, rfl, e⟩ | ⟨hu, hi, e⟩ | ⟨hu, hi, e⟩ | ⟨hu, hi, e⟩ := p.writeReg_cases i v <;> rw [e]
  · rw [Psg.updateTone_noisePeriod, keep (by rintro rfl; cases hu)]
    exact h
  · rfl
  · rw [keep (by rintro rfl; simp at hi)]
    exact h
  · rw [keep (by rintro rfl; simp at hi)]
    exact h
  · rw [keep (by rintro rfl; simp at hi)]
    exact h

theorem Psg.writeReg_envPeriod (p : Psg) (i : Fin 14) (v : Byte) (h : p.envPeriod = envPeriodOf p.regs) :
    (p.writeReg i v).envPeriod = envPeriodOf (p.writeReg i v).regs := by
  rw [Psg.writeReg_regs]
  have keep : i ≠ 11 → i ≠ 12 → envPeriodOf (p.regs.set i (v &&& psgMask i)) = envPeriodOf p.regs := fun h1 h2 => by
    simp only [envPeriodOf, regs_set_ne h1, regs_set_ne h2]
  obtain ⟨u, hu, e⟩ | ⟨hu, hi, e⟩ | ⟨hu, hi, e⟩ | ⟨hu, hi, e⟩ | ⟨hu, hi, e⟩ := p.writeReg_cases i v <;> rw [e]
  · rw [Psg.updateTone_envPeriod, keep (by rintro rfl; cases hu) (by rintro rfl; cases hu)]
    exact h
  · rw [keep (by rintro rfl; simp at hi) (by rintro rfl; simp at hi)]
    exact h
  · rfl
  · rw [keep (by rintro rfl; simp at hi) (by rintro rfl; simp at hi)]
    exact h
  · rw [keep (by rintro rfl; simp at hi) (by rintro rfl; simp at hi)]
    exact h

theorem Psg.writeReg_envTab (p : Psg) (i : Fin 14) (v : Byte)
    (h : p.envTab = envSel ((p.regs[(13 : Fin 14)]).extractLsb' 0 4)) :
    (p.writeReg i v).envTab = envSel (((p.writeReg i v).regs[(13 : Fin 14)]).extractLsb' 0 4) := by
  rw [Psg.writeReg_regs]
  obtain ⟨u, hu, e⟩ | ⟨hu, hi, e⟩ | ⟨hu, hi, e⟩ | ⟨hu, rfl, e⟩ | ⟨hu, hi, e⟩ := p.writeReg_cases i v <;> rw [e]
  · rw [Psg.updateTone_envTab, regs_set_ne (by rintro rfl; cases hu)]
    exact h
  · rw [regs_set_ne (by rintro rfl; simp at hi)]
    exact h
  · rw [regs_set_ne (by rintro rfl; simp at hi)]
    exact h
  · rfl
  · rw [regs_set_ne (by rintro rfl; simp at hi)]
    exact h

/-- A write moves the envelope only when it selects a shape (40 R137). -/
theorem Psg.writeReg_envelope (p : Psg) (i : Fin 14) (v : Byte) :
    ((p.writeReg i v).envPos = p.envPos ∧ (p.writeReg i v).envAlt = p.envAlt ∧ (p.writeReg i v).envTab = p.envTab) ∨
      (i = 13 ∧ (p.writeReg i v).envPos = -32 ∧ (p.writeReg i v).envAlt = false) := by
  obtain ⟨u, -, e⟩ | ⟨-, -, e⟩ | ⟨-, -, e⟩ | ⟨-, hi, e⟩ | ⟨-, -, e⟩ := p.writeReg_cases i v <;> rw [e]
  · exact .inl ⟨by simp [Psg.setReg], by simp [Psg.setReg], by simp [Psg.setReg]⟩
  · exact .inl ⟨rfl, rfl, rfl⟩
  · exact .inl ⟨rfl, rfl, rfl⟩
  · exact .inr ⟨hi, rfl, rfl⟩
  · exact .inl ⟨rfl, rfl, rfl⟩

/-- A deferred reset is asked for only inside a nested call, by a period of at most 1 (40 R136). -/
theorem Psg.writeReg_needReset (p : Psg) (i : Fin 14) (v : Byte) (w : Voice) :
    (p.writeReg i v).needReset.get w = p.needReset.get w ∨
      ((p.writeReg i v).needReset.get w = true ∧ p.inside = true ∧ toneVoice i = some w ∧
        ((p.writeReg i v).tonePeriod.get w).toNat ≤ 1) := by
  obtain ⟨u, hu, e⟩ | ⟨-, -, e⟩ | ⟨-, -, e⟩ | ⟨-, -, e⟩ | ⟨-, -, e⟩ := p.writeReg_cases i v <;> rw [e]
  · by_cases hw : w = u
    · subst hw
      rw [Psg.updateTone_tonePeriod, PerVoice.get_set_same]
      unfold Psg.updateTone
      dsimp only
      split
      · rename_i hc
        exact .inr ⟨PerVoice.get_set_same _ _ _, hc.1, hu, hc.2⟩
      · exact .inl rfl
    · left
      unfold Psg.updateTone
      dsimp only
      split
      · exact PerVoice.get_set_other _ hw _
      · rfl
  all_goals exact .inl rfl

theorem Psg.Inv.writeReg {rate : Nat} {p : Psg} (h : p.Inv rate) (i : Fin 14) (v : Byte) : (p.writeReg i v).Inv rate where
  regs := fun j => by
    rw [Psg.writeReg_get]
    split
    · subst j; exact psgMask_idem i v
    · exact h.regs j
  tonePeriod := fun w => p.writeReg_tonePeriod i v w (h.tonePeriod w)
  noisePeriod := p.writeReg_noisePeriod i v h.noisePeriod
  envPeriod := p.writeReg_envPeriod i v h.envPeriod
  envTab := p.writeReg_envTab i v h.envTab
  toneCnt := by simpa using h.toneCnt
  noiseCnt := by simpa using h.noiseCnt
  envCnt := by simpa using h.envCnt
  lfsr := by simpa using h.lfsr
  noiseBit := by simpa using h.noiseBit
  envPos := by
    obtain ⟨e, -, -⟩ | ⟨-, e, -⟩ := p.writeReg_envelope i v <;> rw [e]
    · exact h.envPos
    · omega
  envAlt := by
    obtain ⟨-, e, e'⟩ | ⟨-, -, e⟩ := p.writeReg_envelope i v <;> rw [e]
    · rw [e']; exact h.envAlt
    · nofun
  needReset := fun w hw => by
    rw [Psg.writeReg_inside]
    obtain e | ⟨-, e, -⟩ := p.writeReg_needReset i v w
    · exact h.needReset w (e ▸ hw)
    · exact e
  psgAcc := by simpa using h.psgAcc
  level := by simpa using h.level
  dcLength := by simpa using h.dcLength
  dcBound := by simpa using h.dcBound
  dcSum := by simpa using h.dcSum

theorem Psg.Inv.writeRegister {rate : Nat} {p : Psg} (h : p.Inv rate) (i v : Byte) : (p.writeRegister i v).Inv rate := by
  unfold Psg.writeRegister
  split
  · exact h.writeReg _ v
  · exact h

/-- What the deferred reset of one voice does to every voice (42 R210). -/
theorem Psg.applyReset_get (p : Psg) (v w : Voice) :
    (p.applyReset v).toneCnt.get w = (if w = v ∧ p.needReset.get v = true then 0 else p.toneCnt.get w) ∧
      (p.applyReset v).edge.get w = (if w = v ∧ p.needReset.get v = true then !p.edge.get w else p.edge.get w) ∧
      (p.applyReset v).needReset.get w = (if w = v then false else p.needReset.get w) := by
  unfold Psg.applyReset
  by_cases hn : p.needReset.get v = true <;> by_cases hw : w = v
  · subst hw; simp [hn]
  · simp [hn, hw, PerVoice.get_set_other]
  · subst hw; simp [hn]
  · simp [hn, hw]

/-- The deferred reset touches the tone counters, the edges and the flags only. -/
theorem Psg.applyReset_eq (p : Psg) (v : Voice) :
    p.applyReset v = { p with
      toneCnt := (p.applyReset v).toneCnt, edge := (p.applyReset v).edge, needReset := (p.applyReset v).needReset } := by
  unfold Psg.applyReset
  split <;> rfl

/-- `InsideTimerIrq` touches `inside`, the tone counters, the edges and the flags only (42 R210). -/
theorem Psg.insideTimerIrq_eq (p : Psg) (f : Bool) :
    p.insideTimerIrq f = { p with
      inside := f
      toneCnt := (p.insideTimerIrq f).toneCnt
      edge := (p.insideTimerIrq f).edge
      needReset := (p.insideTimerIrq f).needReset } := by
  unfold Psg.insideTimerIrq
  dsimp only
  split
  · rw [Psg.applyReset_eq _ .c, Psg.applyReset_eq _ .b, Psg.applyReset_eq p .a]
  · rfl

/-- What leaving or entering a nested call does to each voice (42 R210). -/
theorem Psg.insideTimerIrq_get (p : Psg) (f : Bool) (v : Voice) :
    let applies := p.inside = true ∧ f = false
    let resets := applies ∧ p.needReset.get v = true
    (p.insideTimerIrq f).toneCnt.get v = (if resets then 0 else p.toneCnt.get v) ∧
      (p.insideTimerIrq f).edge.get v = (if resets then !p.edge.get v else p.edge.get v) ∧
      (p.insideTimerIrq f).needReset.get v = (if applies then false else p.needReset.get v) := by
  dsimp only
  unfold Psg.insideTimerIrq
  dsimp only
  by_cases h : p.inside = true ∧ f = false
  · have hc : (p.inside && !f) = true := by simp [h.1, h.2]
    rw [if_pos hc]
    simp only [Psg.applyReset_get]
    cases v <;> simp [h]
  · have hc : ¬(p.inside && !f) = true := by simpa using h
    rw [if_neg hc]
    simp [h]

theorem Psg.Inv.insideTimerIrq {rate : Nat} {p : Psg} (h : p.Inv rate) (f : Bool) : (p.insideTimerIrq f).Inv rate := by
  have hg := p.insideTimerIrq_get f
  rw [Psg.insideTimerIrq_eq]
  refine ⟨h.regs, h.tonePeriod, h.noisePeriod, h.envPeriod, h.envTab, fun v => ?_, h.noiseCnt, h.envCnt, h.lfsr,
    h.noiseBit, h.envPos, h.envAlt, fun v hv => ?_, h.psgAcc, h.level, h.dcLength, h.dcBound, h.dcSum⟩
  · dsimp only
    rw [(hg v).1]
    split
    · decide
    · exact h.toneCnt v
  · dsimp only at hv ⊢
    rw [(hg v).2.2] at hv
    split at hv
    · cases hv
    · rename_i hc
      have hi := h.needReset v hv
      simpa [hi] using hc

theorem sum_replicate_zero (n : Nat) : ((List.replicate n (0 : Half)).map BitVec.toNat).sum = 0 := by
  induction n with
  | zero => rfl
  | succ n ih => simp [List.replicate_succ]

theorem Psg.Inv.atReset {rate : Nat} (hr : 1 ≤ rate) : Psg.atReset.Inv rate where
  regs := by decide
  tonePeriod := fun v => by cases v <;> decide
  noisePeriod := by decide
  envPeriod := by decide
  envTab := by decide
  toneCnt := fun v => by cases v <;> decide
  noiseCnt := by decide
  envCnt := by decide
  lfsr := by decide
  noiseBit := by decide
  envPos := by decide
  envAlt := nofun
  needReset := fun v hv => by cases v <;> cases hv
  psgAcc := hr
  level := by decide
  dcLength := List.length_replicate
  dcBound := fun x hx => by rw [List.eq_of_mem_replicate hx]; decide
  dcSum := (sum_replicate_zero _).symm

theorem Psg.Inv.resetOf {rate : Nat} (hr : 1 ≤ rate) (q : Config.Params) : (Psg.resetOf q).Inv rate := by
  have h := Psg.Inv.atReset hr
  exact ⟨h.regs, h.tonePeriod, h.noisePeriod, h.envPeriod, h.envTab, h.toneCnt, h.noiseCnt, h.envCnt, h.lfsr,
    h.noiseBit, h.envPos, h.envAlt, h.needReset, h.psgAcc, h.level, h.dcLength, h.dcBound, h.dcSum⟩

/-! ## One internal tick, part by part -/

/-- The tone step of one voice: its counter and its edge (41 R162, R163). -/
theorem Psg.toneStep_get (p : Psg) (v w : Voice) :
    let c := p.toneCnt.get v + 1
    let fires := atLeastOne (p.tonePeriod.get v).toNat ≤ c.toNat
    (p.toneStep v).toneCnt.get w = (if w = v then (if fires then 0 else c) else p.toneCnt.get w) ∧
      (p.toneStep v).edge.get w = (if w = v ∧ fires then !p.edge.get w else p.edge.get w) := by
  dsimp only
  unfold Psg.toneStep
  dsimp only
  generalize p.toneCnt.get v + 1 = c
  by_cases hf : atLeastOne (p.tonePeriod.get v).toNat ≤ c.toNat <;> by_cases hw : w = v
  · subst hw; simp [hf]
  · simp [hf, hw, PerVoice.get_set_other]
  · subst hw; simp [hf]
  · simp [hf, hw, PerVoice.get_set_other]

/-! A step of one generator leaves everything else alone. -/

@[simp] theorem Psg.toneStep_regs (p : Psg) (v : Voice) : (p.toneStep v).regs = p.regs := by
  unfold Psg.toneStep; dsimp only; split <;> rfl
@[simp] theorem Psg.toneStep_sel (p : Psg) (v : Voice) : (p.toneStep v).sel = p.sel := by
  unfold Psg.toneStep; dsimp only; split <;> rfl
@[simp] theorem Psg.toneStep_tonePeriod (p : Psg) (v : Voice) : (p.toneStep v).tonePeriod = p.tonePeriod := by
  unfold Psg.toneStep; dsimp only; split <;> rfl
@[simp] theorem Psg.toneStep_noisePeriod (p : Psg) (v : Voice) : (p.toneStep v).noisePeriod = p.noisePeriod := by
  unfold Psg.toneStep; dsimp only; split <;> rfl
@[simp] theorem Psg.toneStep_envPeriod (p : Psg) (v : Voice) : (p.toneStep v).envPeriod = p.envPeriod := by
  unfold Psg.toneStep; dsimp only; split <;> rfl
@[simp] theorem Psg.toneStep_noiseCnt (p : Psg) (v : Voice) : (p.toneStep v).noiseCnt = p.noiseCnt := by
  unfold Psg.toneStep; dsimp only; split <;> rfl
@[simp] theorem Psg.toneStep_lfsr (p : Psg) (v : Voice) : (p.toneStep v).lfsr = p.lfsr := by
  unfold Psg.toneStep; dsimp only; split <;> rfl
@[simp] theorem Psg.toneStep_noiseBit (p : Psg) (v : Voice) : (p.toneStep v).noiseBit = p.noiseBit := by
  unfold Psg.toneStep; dsimp only; split <;> rfl
@[simp] theorem Psg.toneStep_envCnt (p : Psg) (v : Voice) : (p.toneStep v).envCnt = p.envCnt := by
  unfold Psg.toneStep; dsimp only; split <;> rfl
@[simp] theorem Psg.toneStep_envTab (p : Psg) (v : Voice) : (p.toneStep v).envTab = p.envTab := by
  unfold Psg.toneStep; dsimp only; split <;> rfl
@[simp] theorem Psg.toneStep_envPos (p : Psg) (v : Voice) : (p.toneStep v).envPos = p.envPos := by
  unfold Psg.toneStep; dsimp only; split <;> rfl
@[simp] theorem Psg.toneStep_envAlt (p : Psg) (v : Voice) : (p.toneStep v).envAlt = p.envAlt := by
  unfold Psg.toneStep; dsimp only; split <;> rfl
@[simp] theorem Psg.toneStep_half (p : Psg) (v : Voice) : (p.toneStep v).half = p.half := by
  unfold Psg.toneStep; dsimp only; split <;> rfl
@[simp] theorem Psg.toneStep_inside (p : Psg) (v : Voice) : (p.toneStep v).inside = p.inside := by
  unfold Psg.toneStep; dsimp only; split <;> rfl
@[simp] theorem Psg.toneStep_needReset (p : Psg) (v : Voice) : (p.toneStep v).needReset = p.needReset := by
  unfold Psg.toneStep; dsimp only; split <;> rfl
@[simp] theorem Psg.toneStep_psgAcc (p : Psg) (v : Voice) : (p.toneStep v).psgAcc = p.psgAcc := by
  unfold Psg.toneStep; dsimp only; split <;> rfl
@[simp] theorem Psg.toneStep_level (p : Psg) (v : Voice) : (p.toneStep v).level = p.level := by
  unfold Psg.toneStep; dsimp only; split <;> rfl
@[simp] theorem Psg.toneStep_dcHist (p : Psg) (v : Voice) : (p.toneStep v).dcHist = p.dcHist := by
  unfold Psg.toneStep; dsimp only; split <;> rfl
@[simp] theorem Psg.toneStep_dcSum (p : Psg) (v : Voice) : (p.toneStep v).dcSum = p.dcSum := by
  unfold Psg.toneStep; dsimp only; split <;> rfl
@[simp] theorem Psg.toneStep_dcIdx (p : Psg) (v : Voice) : (p.toneStep v).dcIdx = p.dcIdx := by
  unfold Psg.toneStep; dsimp only; split <;> rfl
@[simp] theorem Psg.toneStep_voiceLvl (p : Psg) (v : Voice) : (p.toneStep v).voiceLvl = p.voiceLvl := by
  unfold Psg.toneStep; dsimp only; split <;> rfl

@[simp] theorem Psg.noiseStep_regs (p : Psg) : (p.noiseStep).regs = p.regs := by
  unfold Psg.noiseStep; dsimp only; split <;> rfl
@[simp] theorem Psg.noiseStep_sel (p : Psg) : (p.noiseStep).sel = p.sel := by
  unfold Psg.noiseStep; dsimp only; split <;> rfl
@[simp] theorem Psg.noiseStep_tonePeriod (p : Psg) : (p.noiseStep).tonePeriod = p.tonePeriod := by
  unfold Psg.noiseStep; dsimp only; split <;> rfl
@[simp] theorem Psg.noiseStep_noisePeriod (p : Psg) : (p.noiseStep).noisePeriod = p.noisePeriod := by
  unfold Psg.noiseStep; dsimp only; split <;> rfl
@[simp] theorem Psg.noiseStep_envPeriod (p : Psg) : (p.noiseStep).envPeriod = p.envPeriod := by
  unfold Psg.noiseStep; dsimp only; split <;> rfl
@[simp] theorem Psg.noiseStep_toneCnt (p : Psg) : (p.noiseStep).toneCnt = p.toneCnt := by
  unfold Psg.noiseStep; dsimp only; split <;> rfl
@[simp] theorem Psg.noiseStep_edge (p : Psg) : (p.noiseStep).edge = p.edge := by
  unfold Psg.noiseStep; dsimp only; split <;> rfl
@[simp] theorem Psg.noiseStep_envCnt (p : Psg) : (p.noiseStep).envCnt = p.envCnt := by
  unfold Psg.noiseStep; dsimp only; split <;> rfl
@[simp] theorem Psg.noiseStep_envTab (p : Psg) : (p.noiseStep).envTab = p.envTab := by
  unfold Psg.noiseStep; dsimp only; split <;> rfl
@[simp] theorem Psg.noiseStep_envPos (p : Psg) : (p.noiseStep).envPos = p.envPos := by
  unfold Psg.noiseStep; dsimp only; split <;> rfl
@[simp] theorem Psg.noiseStep_envAlt (p : Psg) : (p.noiseStep).envAlt = p.envAlt := by
  unfold Psg.noiseStep; dsimp only; split <;> rfl
@[simp] theorem Psg.noiseStep_half (p : Psg) : (p.noiseStep).half = p.half := by
  unfold Psg.noiseStep; dsimp only; split <;> rfl
@[simp] theorem Psg.noiseStep_inside (p : Psg) : (p.noiseStep).inside = p.inside := by
  unfold Psg.noiseStep; dsimp only; split <;> rfl
@[simp] theorem Psg.noiseStep_needReset (p : Psg) : (p.noiseStep).needReset = p.needReset := by
  unfold Psg.noiseStep; dsimp only; split <;> rfl
@[simp] theorem Psg.noiseStep_psgAcc (p : Psg) : (p.noiseStep).psgAcc = p.psgAcc := by
  unfold Psg.noiseStep; dsimp only; split <;> rfl
@[simp] theorem Psg.noiseStep_level (p : Psg) : (p.noiseStep).level = p.level := by
  unfold Psg.noiseStep; dsimp only; split <;> rfl
@[simp] theorem Psg.noiseStep_dcHist (p : Psg) : (p.noiseStep).dcHist = p.dcHist := by
  unfold Psg.noiseStep; dsimp only; split <;> rfl
@[simp] theorem Psg.noiseStep_dcSum (p : Psg) : (p.noiseStep).dcSum = p.dcSum := by
  unfold Psg.noiseStep; dsimp only; split <;> rfl
@[simp] theorem Psg.noiseStep_dcIdx (p : Psg) : (p.noiseStep).dcIdx = p.dcIdx := by
  unfold Psg.noiseStep; dsimp only; split <;> rfl
@[simp] theorem Psg.noiseStep_voiceLvl (p : Psg) : (p.noiseStep).voiceLvl = p.voiceLvl := by
  unfold Psg.noiseStep; dsimp only; split <;> rfl

@[simp] theorem Psg.envStep_regs (q : Config.Params) (p : Psg) : (p.envStep q).regs = p.regs := by
  unfold Psg.envStep Psg.envAdvance; dsimp only; split <;> first | rfl | (split <;> rfl)
@[simp] theorem Psg.envStep_sel (q : Config.Params) (p : Psg) : (p.envStep q).sel = p.sel := by
  unfold Psg.envStep Psg.envAdvance; dsimp only; split <;> first | rfl | (split <;> rfl)
@[simp] theorem Psg.envStep_tonePeriod (q : Config.Params) (p : Psg) : (p.envStep q).tonePeriod = p.tonePeriod := by
  unfold Psg.envStep Psg.envAdvance; dsimp only; split <;> first | rfl | (split <;> rfl)
@[simp] theorem Psg.envStep_noisePeriod (q : Config.Params) (p : Psg) : (p.envStep q).noisePeriod = p.noisePeriod := by
  unfold Psg.envStep Psg.envAdvance; dsimp only; split <;> first | rfl | (split <;> rfl)
@[simp] theorem Psg.envStep_envPeriod (q : Config.Params) (p : Psg) : (p.envStep q).envPeriod = p.envPeriod := by
  unfold Psg.envStep Psg.envAdvance; dsimp only; split <;> first | rfl | (split <;> rfl)
@[simp] theorem Psg.envStep_toneCnt (q : Config.Params) (p : Psg) : (p.envStep q).toneCnt = p.toneCnt := by
  unfold Psg.envStep Psg.envAdvance; dsimp only; split <;> first | rfl | (split <;> rfl)
@[simp] theorem Psg.envStep_edge (q : Config.Params) (p : Psg) : (p.envStep q).edge = p.edge := by
  unfold Psg.envStep Psg.envAdvance; dsimp only; split <;> first | rfl | (split <;> rfl)
@[simp] theorem Psg.envStep_noiseCnt (q : Config.Params) (p : Psg) : (p.envStep q).noiseCnt = p.noiseCnt := by
  unfold Psg.envStep Psg.envAdvance; dsimp only; split <;> first | rfl | (split <;> rfl)
@[simp] theorem Psg.envStep_lfsr (q : Config.Params) (p : Psg) : (p.envStep q).lfsr = p.lfsr := by
  unfold Psg.envStep Psg.envAdvance; dsimp only; split <;> first | rfl | (split <;> rfl)
@[simp] theorem Psg.envStep_noiseBit (q : Config.Params) (p : Psg) : (p.envStep q).noiseBit = p.noiseBit := by
  unfold Psg.envStep Psg.envAdvance; dsimp only; split <;> first | rfl | (split <;> rfl)
@[simp] theorem Psg.envStep_envTab (q : Config.Params) (p : Psg) : (p.envStep q).envTab = p.envTab := by
  unfold Psg.envStep Psg.envAdvance; dsimp only; split <;> first | rfl | (split <;> rfl)
@[simp] theorem Psg.envStep_half (q : Config.Params) (p : Psg) : (p.envStep q).half = p.half := by
  unfold Psg.envStep Psg.envAdvance; dsimp only; split <;> first | rfl | (split <;> rfl)
@[simp] theorem Psg.envStep_inside (q : Config.Params) (p : Psg) : (p.envStep q).inside = p.inside := by
  unfold Psg.envStep Psg.envAdvance; dsimp only; split <;> first | rfl | (split <;> rfl)
@[simp] theorem Psg.envStep_needReset (q : Config.Params) (p : Psg) : (p.envStep q).needReset = p.needReset := by
  unfold Psg.envStep Psg.envAdvance; dsimp only; split <;> first | rfl | (split <;> rfl)
@[simp] theorem Psg.envStep_psgAcc (q : Config.Params) (p : Psg) : (p.envStep q).psgAcc = p.psgAcc := by
  unfold Psg.envStep Psg.envAdvance; dsimp only; split <;> first | rfl | (split <;> rfl)
@[simp] theorem Psg.envStep_level (q : Config.Params) (p : Psg) : (p.envStep q).level = p.level := by
  unfold Psg.envStep Psg.envAdvance; dsimp only; split <;> first | rfl | (split <;> rfl)
@[simp] theorem Psg.envStep_dcHist (q : Config.Params) (p : Psg) : (p.envStep q).dcHist = p.dcHist := by
  unfold Psg.envStep Psg.envAdvance; dsimp only; split <;> first | rfl | (split <;> rfl)
@[simp] theorem Psg.envStep_dcSum (q : Config.Params) (p : Psg) : (p.envStep q).dcSum = p.dcSum := by
  unfold Psg.envStep Psg.envAdvance; dsimp only; split <;> first | rfl | (split <;> rfl)
@[simp] theorem Psg.envStep_dcIdx (q : Config.Params) (p : Psg) : (p.envStep q).dcIdx = p.dcIdx := by
  unfold Psg.envStep Psg.envAdvance; dsimp only; split <;> first | rfl | (split <;> rfl)
@[simp] theorem Psg.envStep_voiceLvl (q : Config.Params) (p : Psg) : (p.envStep q).voiceLvl = p.voiceLvl := by
  unfold Psg.envStep Psg.envAdvance; dsimp only; split <;> first | rfl | (split <;> rfl)

/-- The three tone steps of a tick. -/
def Psg.toneSteps (p : Psg) : Psg := ((p.toneStep .a).toneStep .b).toneStep .c

@[simp] theorem Psg.toneSteps_regs (p : Psg) : (p.toneSteps).regs = p.regs := by
  simp [Psg.toneSteps]
@[simp] theorem Psg.toneSteps_sel (p : Psg) : (p.toneSteps).sel = p.sel := by
  simp [Psg.toneSteps]
@[simp] theorem Psg.toneSteps_tonePeriod (p : Psg) : (p.toneSteps).tonePeriod = p.tonePeriod := by
  simp [Psg.toneSteps]
@[simp] theorem Psg.toneSteps_noisePeriod (p : Psg) : (p.toneSteps).noisePeriod = p.noisePeriod := by
  simp [Psg.toneSteps]
@[simp] theorem Psg.toneSteps_envPeriod (p : Psg) : (p.toneSteps).envPeriod = p.envPeriod := by
  simp [Psg.toneSteps]
@[simp] theorem Psg.toneSteps_noiseCnt (p : Psg) : (p.toneSteps).noiseCnt = p.noiseCnt := by
  simp [Psg.toneSteps]
@[simp] theorem Psg.toneSteps_lfsr (p : Psg) : (p.toneSteps).lfsr = p.lfsr := by
  simp [Psg.toneSteps]
@[simp] theorem Psg.toneSteps_noiseBit (p : Psg) : (p.toneSteps).noiseBit = p.noiseBit := by
  simp [Psg.toneSteps]
@[simp] theorem Psg.toneSteps_envCnt (p : Psg) : (p.toneSteps).envCnt = p.envCnt := by
  simp [Psg.toneSteps]
@[simp] theorem Psg.toneSteps_envTab (p : Psg) : (p.toneSteps).envTab = p.envTab := by
  simp [Psg.toneSteps]
@[simp] theorem Psg.toneSteps_envPos (p : Psg) : (p.toneSteps).envPos = p.envPos := by
  simp [Psg.toneSteps]
@[simp] theorem Psg.toneSteps_envAlt (p : Psg) : (p.toneSteps).envAlt = p.envAlt := by
  simp [Psg.toneSteps]
@[simp] theorem Psg.toneSteps_half (p : Psg) : (p.toneSteps).half = p.half := by
  simp [Psg.toneSteps]
@[simp] theorem Psg.toneSteps_inside (p : Psg) : (p.toneSteps).inside = p.inside := by
  simp [Psg.toneSteps]
@[simp] theorem Psg.toneSteps_needReset (p : Psg) : (p.toneSteps).needReset = p.needReset := by
  simp [Psg.toneSteps]
@[simp] theorem Psg.toneSteps_psgAcc (p : Psg) : (p.toneSteps).psgAcc = p.psgAcc := by
  simp [Psg.toneSteps]
@[simp] theorem Psg.toneSteps_level (p : Psg) : (p.toneSteps).level = p.level := by
  simp [Psg.toneSteps]
@[simp] theorem Psg.toneSteps_dcHist (p : Psg) : (p.toneSteps).dcHist = p.dcHist := by
  simp [Psg.toneSteps]
@[simp] theorem Psg.toneSteps_dcSum (p : Psg) : (p.toneSteps).dcSum = p.dcSum := by
  simp [Psg.toneSteps]
@[simp] theorem Psg.toneSteps_dcIdx (p : Psg) : (p.toneSteps).dcIdx = p.dcIdx := by
  simp [Psg.toneSteps]
@[simp] theorem Psg.toneSteps_voiceLvl (p : Psg) : (p.toneSteps).voiceLvl = p.voiceLvl := by
  simp [Psg.toneSteps]

/-- A voice's tone step does not depend on the other voices'. -/
theorem Psg.toneSteps_get (p : Psg) (v : Voice) :
    let c := p.toneCnt.get v + 1
    let fires := atLeastOne (p.tonePeriod.get v).toNat ≤ c.toNat
    p.toneSteps.toneCnt.get v = (if fires then 0 else c) ∧
      p.toneSteps.edge.get v = (if fires then !p.edge.get v else p.edge.get v) := by
  dsimp only
  unfold Psg.toneSteps
  simp only [Psg.toneStep_get, Psg.toneStep_tonePeriod]
  cases v <;> simp

/-- The generator steps of a tick, with the tone steps gathered (41 R170). -/
theorem Psg.generators_def (q : Config.Params) (p : Psg) :
    p.generators q =
      let p2 := { p.toneSteps with half := !p.half }
      let p3 := if p.half = false then p2.noiseStep else p2
      if q.envCadence = .full ∨ p.half = false then p3.envStep q else p3 := by
  have hh : (p.toneSteps).half = p.half := p.toneSteps_half
  unfold Psg.generators
  change (let p2 := { p.toneSteps with half := !p.toneSteps.half }
      let p3 := if p2.half = true then p2.noiseStep else p2
      if (decide (q.envCadence = .full) || p2.half) = true then p3.envStep q else p3) = _
  rw [hh]
  cases p.half <;> simp

@[simp] theorem Psg.generators_regs (q : Config.Params) (p : Psg) : (p.generators q).regs = p.regs := by
  rw [Psg.generators_def]; dsimp only; split_ifs <;> simp
@[simp] theorem Psg.generators_sel (q : Config.Params) (p : Psg) : (p.generators q).sel = p.sel := by
  rw [Psg.generators_def]; dsimp only; split_ifs <;> simp
@[simp] theorem Psg.generators_tonePeriod (q : Config.Params) (p : Psg) : (p.generators q).tonePeriod = p.tonePeriod := by
  rw [Psg.generators_def]; dsimp only; split_ifs <;> simp
@[simp] theorem Psg.generators_noisePeriod (q : Config.Params) (p : Psg) : (p.generators q).noisePeriod = p.noisePeriod := by
  rw [Psg.generators_def]; dsimp only; split_ifs <;> simp
@[simp] theorem Psg.generators_envPeriod (q : Config.Params) (p : Psg) : (p.generators q).envPeriod = p.envPeriod := by
  rw [Psg.generators_def]; dsimp only; split_ifs <;> simp
@[simp] theorem Psg.generators_toneCnt (q : Config.Params) (p : Psg) : (p.generators q).toneCnt = p.toneSteps.toneCnt := by
  rw [Psg.generators_def]; dsimp only; split_ifs <;> simp
@[simp] theorem Psg.generators_edge (q : Config.Params) (p : Psg) : (p.generators q).edge = p.toneSteps.edge := by
  rw [Psg.generators_def]; dsimp only; split_ifs <;> simp
@[simp] theorem Psg.generators_envTab (q : Config.Params) (p : Psg) : (p.generators q).envTab = p.envTab := by
  rw [Psg.generators_def]; dsimp only; split_ifs <;> simp
@[simp] theorem Psg.generators_half (q : Config.Params) (p : Psg) : (p.generators q).half = !p.half := by
  rw [Psg.generators_def]; dsimp only; split_ifs <;> simp
@[simp] theorem Psg.generators_inside (q : Config.Params) (p : Psg) : (p.generators q).inside = p.inside := by
  rw [Psg.generators_def]; dsimp only; split_ifs <;> simp
@[simp] theorem Psg.generators_needReset (q : Config.Params) (p : Psg) : (p.generators q).needReset = p.needReset := by
  rw [Psg.generators_def]; dsimp only; split_ifs <;> simp
@[simp] theorem Psg.generators_psgAcc (q : Config.Params) (p : Psg) : (p.generators q).psgAcc = p.psgAcc := by
  rw [Psg.generators_def]; dsimp only; split_ifs <;> simp
@[simp] theorem Psg.generators_level (q : Config.Params) (p : Psg) : (p.generators q).level = p.level := by
  rw [Psg.generators_def]; dsimp only; split_ifs <;> simp
@[simp] theorem Psg.generators_dcHist (q : Config.Params) (p : Psg) : (p.generators q).dcHist = p.dcHist := by
  rw [Psg.generators_def]; dsimp only; split_ifs <;> simp
@[simp] theorem Psg.generators_dcSum (q : Config.Params) (p : Psg) : (p.generators q).dcSum = p.dcSum := by
  rw [Psg.generators_def]; dsimp only; split_ifs <;> simp
@[simp] theorem Psg.generators_dcIdx (q : Config.Params) (p : Psg) : (p.generators q).dcIdx = p.dcIdx := by
  rw [Psg.generators_def]; dsimp only; split_ifs <;> simp
@[simp] theorem Psg.generators_voiceLvl (q : Config.Params) (p : Psg) : (p.generators q).voiceLvl = p.voiceLvl := by
  rw [Psg.generators_def]; dsimp only; split_ifs <;> simp

/-- The noise state after a tick (41 R161, R164). -/
theorem Psg.generators_noise (q : Config.Params) (p : Psg) :
    let fires := p.half = false ∧ atLeastOne p.noisePeriod.toNat ≤ (p.noiseCnt + 1).toNat
    (p.generators q).noiseCnt = (if fires then 0 else if p.half = false then p.noiseCnt + 1 else p.noiseCnt) ∧
      (p.generators q).lfsr = (if fires then lfsrNext p.lfsr else p.lfsr) ∧
      (p.generators q).noiseBit = (if fires then (lfsrNext p.lfsr).getLsbD 0 else p.noiseBit) := by
  have key : ∀ r : Psg, r.noisePeriod = p.noisePeriod → r.noiseCnt = p.noiseCnt → r.lfsr = p.lfsr →
      r.noiseBit = p.noiseBit →
      let fires := atLeastOne p.noisePeriod.toNat ≤ (p.noiseCnt + 1).toNat
      r.noiseStep.noiseCnt = (if fires then 0 else p.noiseCnt + 1) ∧
        r.noiseStep.lfsr = (if fires then lfsrNext p.lfsr else p.lfsr) ∧
        r.noiseStep.noiseBit = (if fires then (lfsrNext p.lfsr).getLsbD 0 else p.noiseBit) := by
    intro r h1 h2 h3 h4
    unfold Psg.noiseStep
    simp only [h1, h2, h3]
    split <;> simp only [h4, and_self]
  dsimp only at key ⊢
  rw [Psg.generators_def]
  cases hh : p.half
  · have k := key { p.toneSteps with half := !false } (by simp) (by simp) (by simp) (by simp)
    simp only [if_true, or_true, true_and, Psg.envStep_noiseCnt, Psg.envStep_lfsr, Psg.envStep_noiseBit]
    exact k
  · simp only [Bool.true_eq_false, if_false, or_false, false_and]
    split <;> simp

/-- The envelope's state after a tick (41 R161, R166). -/
theorem Psg.generators_envelope (q : Config.Params) (p : Psg) :
    let r := if q.envCadence = .full ∨ p.half = false then p.envStep q else p
    (p.generators q).envCnt = r.envCnt ∧ (p.generators q).envPos = r.envPos ∧ (p.generators q).envAlt = r.envAlt := by
  have key : ∀ r : Psg, r.envCnt = p.envCnt → r.envPeriod = p.envPeriod → r.envPos = p.envPos →
      r.envAlt = p.envAlt → r.envTab = p.envTab →
      (r.envStep q).envCnt = (p.envStep q).envCnt ∧ (r.envStep q).envPos = (p.envStep q).envPos ∧
        (r.envStep q).envAlt = (p.envStep q).envAlt := by
    intro r h1 h2 h3 h4 h5
    unfold Psg.envStep Psg.envAdvance
    simp only [h1, h2, h3, h4, h5]
    split
    · split <;> exact ⟨rfl, rfl, rfl⟩
    · trivial
  dsimp only
  rw [Psg.generators_def]
  dsimp only
  split_ifs
  · exact key _ (by simp) (by simp) (by simp) (by simp) (by simp)
  · exact key _ (by simp) (by simp) (by simp) (by simp) (by simp)
  · exact ⟨by simp, by simp, by simp⟩
  · exact ⟨by simp, by simp, by simp⟩

/-- What the envelope step does (41 R163, R166). -/
theorem Psg.envStep_get (q : Config.Params) (p : Psg) :
    let fires := atLeastOne p.envPeriod.toNat ≤ (p.envCnt + 1).toNat
    (p.envStep q).envCnt = (if fires then 0 else p.envCnt + 1) ∧
      (p.envStep q).envPos = (if fires then (if p.envPos + 1 = 32 then 0 else p.envPos + 1) else p.envPos) ∧
      (p.envStep q).envAlt =
        (if fires ∧ p.envPos + 1 = 32 ∧ q.envAltMode = .mirror ∧ (p.envTab = 4 ∨ p.envTab = 8) then !p.envAlt
          else p.envAlt) := by
  dsimp only
  unfold Psg.envStep Psg.envAdvance
  dsimp only
  generalize p.envCnt + 1 = c
  by_cases hf : atLeastOne p.envPeriod.toNat ≤ c.toNat <;> by_cases hp : p.envPos + 1 = 32
  · simp [hf, hp]
  · simp [hf, hp]
  · simp [hf]
  · simp [hf]

/-! ## Frames of a tick -/

@[simp] theorem Psg.tick_regs (T : Config.Tables) (q : Config.Params) (p : Psg) : (p.tick T q).regs = p.regs := by
  change (p.generators q).regs = _
  simp
@[simp] theorem Psg.tick_sel (T : Config.Tables) (q : Config.Params) (p : Psg) : (p.tick T q).sel = p.sel := by
  change (p.generators q).sel = _
  simp
@[simp] theorem Psg.tick_tonePeriod (T : Config.Tables) (q : Config.Params) (p : Psg) : (p.tick T q).tonePeriod = p.tonePeriod := by
  change (p.generators q).tonePeriod = _
  simp
@[simp] theorem Psg.tick_noisePeriod (T : Config.Tables) (q : Config.Params) (p : Psg) : (p.tick T q).noisePeriod = p.noisePeriod := by
  change (p.generators q).noisePeriod = _
  simp
@[simp] theorem Psg.tick_envPeriod (T : Config.Tables) (q : Config.Params) (p : Psg) : (p.tick T q).envPeriod = p.envPeriod := by
  change (p.generators q).envPeriod = _
  simp
@[simp] theorem Psg.tick_envTab (T : Config.Tables) (q : Config.Params) (p : Psg) : (p.tick T q).envTab = p.envTab := by
  change (p.generators q).envTab = _
  simp
@[simp] theorem Psg.tick_inside (T : Config.Tables) (q : Config.Params) (p : Psg) : (p.tick T q).inside = p.inside := by
  change (p.generators q).inside = _
  simp
@[simp] theorem Psg.tick_needReset (T : Config.Tables) (q : Config.Params) (p : Psg) : (p.tick T q).needReset = p.needReset := by
  change (p.generators q).needReset = _
  simp
@[simp] theorem Psg.tick_psgAcc (T : Config.Tables) (q : Config.Params) (p : Psg) : (p.tick T q).psgAcc = p.psgAcc := by
  change (p.generators q).psgAcc = _
  simp
@[simp] theorem Psg.tick_dcHist (T : Config.Tables) (q : Config.Params) (p : Psg) : (p.tick T q).dcHist = p.dcHist := by
  change (p.generators q).dcHist = _
  simp
@[simp] theorem Psg.tick_dcSum (T : Config.Tables) (q : Config.Params) (p : Psg) : (p.tick T q).dcSum = p.dcSum := by
  change (p.generators q).dcSum = _
  simp
@[simp] theorem Psg.tick_dcIdx (T : Config.Tables) (q : Config.Params) (p : Psg) : (p.tick T q).dcIdx = p.dcIdx := by
  change (p.generators q).dcIdx = _
  simp
@[simp] theorem Psg.tick_half (T : Config.Tables) (q : Config.Params) (p : Psg) : (p.tick T q).half = !p.half := by
  change (p.generators q).half = _
  simp

/-! ## The invariant: a tick -/

/-- The shift register never becomes 0: bit 0 enters bit 16 through the feedback (41 R164). -/
theorem lfsrNext_ne_zero {l : BitVec 17} (h : l ≠ 0) : lfsrNext l ≠ 0 := by
  intro hn
  apply h
  have bit : ∀ i, (lfsrNext l).getLsbD i = false := fun i => by rw [hn]; exact BitVec.getLsbD_zero
  simp only [lfsrNext, BitVec.getLsbD_append, BitVec.getLsbD_extractLsb'] at bit
  have low : ∀ i, 1 ≤ i → i < 17 → l.getLsbD i = false := fun i h1 h2 => by
    have := bit (i - 1)
    rw [if_pos (by omega)] at this
    simpa [show i - 1 < 16 by omega, show 1 + (i - 1) = i by omega] using this
  have h16 := bit 16
  simp only [Nat.lt_irrefl, if_false, Nat.sub_self, BitVec.getLsbD_ofBool] at h16
  have h0 : l.getLsbD 0 = false := by
    rw [low 3 (by omega) (by omega)] at h16
    simpa using h16
  apply BitVec.eq_of_getLsbD_eq
  intro i hi
  rcases Nat.eq_zero_or_pos i with rfl | hp
  · simpa using h0
  · simpa using low i hp hi

theorem mixedLevel_le (T : Config.Tables) (q : Config.Params) (p : Psg) : p.mixedLevel T q ≤ Config.psgCeiling := by
  unfold Psg.mixedLevel
  split
  · have := (T.mix (p.level4 .c ++ p.level4 .b ++ p.level4 .a)).isLt
    omega
  · have ha := (T.vol (p.level5 .a)).isLt
    have hb := (T.vol (p.level5 .b)).isLt
    have hc := (T.vol (p.level5 .c)).isLt
    simp only [Config.psgCeiling] at *
    omega

theorem tick_level (T : Config.Tables) (q : Config.Params) (p : Psg) :
    (p.tick T q).level.toNat = (p.generators q).mixedLevel T q := by
  have h := mixedLevel_le T q (p.generators q)
  change (BitVec.ofNat 16 _).toNat = _
  rw [BitVec.toNat_ofNat, Nat.mod_eq_of_lt]
  simp only [Config.psgCeiling] at h
  omega

theorem atLeastOne_le {a n : Nat} (h : a ≤ n) (hn : 1 ≤ n) : atLeastOne a ≤ n := by
  unfold atLeastOne; omega

theorem Psg.Inv.tick {rate : Nat} {p : Psg} (h : p.Inv rate) (T : Config.Tables) (q : Config.Params) :
    (p.tick T q).Inv rate where
  regs := by simpa using h.regs
  tonePeriod := by simpa using h.tonePeriod
  noisePeriod := by simpa using h.noisePeriod
  envPeriod := by simpa using h.envPeriod
  envTab := by simpa using h.envTab
  toneCnt := fun v => by
    change ((p.generators q).toneCnt.get v).toNat < 4096
    rw [Psg.generators_toneCnt, (p.toneSteps_get v).1]
    split
    · decide
    · rename_i hc
      have hb : atLeastOne (p.tonePeriod.get v).toNat ≤ 4095 := atLeastOne_le (by omega) (by omega)
      omega
  noiseCnt := by
    change (p.generators q).noiseCnt.toNat < 32
    rw [(p.generators_noise q).1]
    have hb : atLeastOne p.noisePeriod.toNat ≤ 31 := atLeastOne_le (by omega) (by omega)
    have hn := h.noiseCnt
    split
    · decide
    · split
      · rename_i hc hh
        have : ¬atLeastOne p.noisePeriod.toNat ≤ (p.noiseCnt + 1).toNat := fun hle => hc ⟨hh, hle⟩
        omega
      · exact hn
  envCnt := by
    change (p.generators q).envCnt.toNat < 65535
    rw [(p.generators_envelope q).1]
    split
    · rw [(p.envStep_get q).1]
      have hb : atLeastOne p.envPeriod.toNat ≤ 65535 := atLeastOne_le (by omega) (by omega)
      split
      · decide
      · omega
    · exact h.envCnt
  lfsr := by
    change (p.generators q).lfsr ≠ 0
    rw [(p.generators_noise q).2.1]
    split
    · exact lfsrNext_ne_zero h.lfsr
    · exact h.lfsr
  noiseBit := by
    change (p.generators q).noiseBit = (p.generators q).lfsr.getLsbD 0
    rw [(p.generators_noise q).2.1, (p.generators_noise q).2.2]
    split
    · rfl
    · exact h.noiseBit
  envPos := by
    change -32 ≤ (p.generators q).envPos ∧ (p.generators q).envPos ≤ 31
    rw [(p.generators_envelope q).2.1]
    have hp := h.envPos
    split
    · rw [(p.envStep_get q).2.1]
      split
      · split <;> omega
      · exact hp
    · exact hp
  envAlt := by
    change (p.generators q).envAlt = true → _
    rw [Psg.tick_envTab, (p.generators_envelope q).2.2]
    split
    · rw [(p.envStep_get q).2.2]
      split
      · rename_i hc
        exact fun _ => hc.2.2.2
      · exact h.envAlt
    · exact h.envAlt
  needReset := by simpa using h.needReset
  psgAcc := by simpa using h.psgAcc
  level := by
    rw [tick_level]
    exact mixedLevel_le T q _
  dcLength := by simpa using h.dcLength
  dcBound := by simpa using h.dcBound
  dcSum := by simpa using h.dcSum

/-! ## The loops of the down-sampler -/

theorem times_succ {α : Type} (f : α → α) (n : Nat) (x : α) : times f (n + 1) x = f (times f n x) := by
  induction n generalizing x with
  | zero => rfl
  | succ n ih => exact ih (f x)

theorem Psg.maxHold_psg (T : Config.Tables) (q : Config.Params) (rate n : Nat) (p : Psg) (raw : Nat) :
    (Psg.maxHold T q rate n p raw).1 = times (fun p => p.timedTick T q rate) n p := by
  induction n generalizing p raw with
  | zero => rfl
  | succ n ih => exact ih _ _

theorem Psg.average_psg (T : Config.Tables) (q : Config.Params) (rate a0 n : Nat) (p : Psg) (v : Average) :
    (Psg.average T q rate a0 n p v).1 = times (fun p => p.timedTick T q rate) n p := by
  induction n generalizing p v with
  | zero => rfl
  | succ n ih => exact ih _ _

/-- Both strategies run the loop of 42 R201. -/
theorem Psg.resample_psg (T : Config.Tables) (q : Config.Params) (rate : Nat) (p : Psg) :
    (p.resample T q rate).1 =
      times (fun p => p.timedTick T q rate) (p.tickCount rate) { p with psgAcc := p.psgAcc + Config.fInt } := by
  unfold Psg.resample
  dsimp only
  split
  · split
    · rename_i h
      rw [h]
      rfl
    · exact Psg.maxHold_psg _ _ _ _ _ _
  · exact Psg.average_psg _ _ _ _ _ _ _

theorem Psg.times_psgAcc (T : Config.Tables) (q : Config.Params) (rate n : Nat) (p : Psg) :
    (times (fun p => p.timedTick T q rate) n p).psgAcc = p.psgAcc - n * rate := by
  induction n generalizing p with
  | zero => simp [times]
  | succ n ih =>
    simp only [times]
    rw [ih]
    simp only [Psg.timedTick, Psg.tick_psgAcc]
    rw [Nat.sub_sub, Nat.succ_mul, Nat.add_comm]

theorem Psg.resample_psgAcc (T : Config.Tables) (q : Config.Params) (rate : Nat) (p : Psg) :
    (p.resample T q rate).1.psgAcc = (p.psgAcc + Config.fInt) % rate := by
  rw [Psg.resample_psg, Psg.times_psgAcc, Psg.tickCount, Nat.mod_eq_sub_div_mul]

theorem Psg.Inv.mono {rate rate' : Nat} {p : Psg} (h : p.Inv rate) (hr : rate ≤ rate') : p.Inv rate' :=
  ⟨h.regs, h.tonePeriod, h.noisePeriod, h.envPeriod, h.envTab, h.toneCnt, h.noiseCnt, h.envCnt, h.lfsr, h.noiseBit,
    h.envPos, h.envAlt, h.needReset, Nat.lt_of_lt_of_le h.psgAcc hr, h.level, h.dcLength, h.dcBound, h.dcSum⟩

theorem Psg.Inv.withAcc {rate : Nat} {p : Psg} (h : p.Inv rate) {a rate' : Nat} (ha : a < rate') :
    ({ p with psgAcc := a } : Psg).Inv rate' :=
  ⟨h.regs, h.tonePeriod, h.noisePeriod, h.envPeriod, h.envTab, h.toneCnt, h.noiseCnt, h.envCnt, h.lfsr, h.noiseBit,
    h.envPos, h.envAlt, h.needReset, ha, h.level, h.dcLength, h.dcBound, h.dcSum⟩

theorem Psg.Inv.timedTick {bound : Nat} {p : Psg} (h : p.Inv bound) (T : Config.Tables) (q : Config.Params) (rate : Nat) :
    (p.timedTick T q rate).Inv bound :=
  (h.withAcc (Nat.lt_of_le_of_lt (Nat.sub_le _ rate) h.psgAcc)).tick T q

theorem Psg.Inv.times {bound : Nat} {p : Psg} (h : p.Inv bound) (T : Config.Tables) (q : Config.Params) (rate n : Nat) :
    (times (fun p => p.timedTick T q rate) n p).Inv bound := by
  induction n generalizing p with
  | zero => exact h
  | succ n ih => exact ih (h.timedTick T q rate)

theorem Psg.Inv.resample {rate : Nat} {p : Psg} (h : p.Inv rate) (T : Config.Tables) (q : Config.Params) (hr : 1 ≤ rate) :
    (p.resample T q rate).1.Inv rate := by
  have ha : (p.resample T q rate).1.psgAcc < rate := by
    rw [Psg.resample_psgAcc]
    exact Nat.mod_lt _ hr
  have hw : ({ p with psgAcc := p.psgAcc + Config.fInt } : Psg).Inv (p.psgAcc + Config.fInt + 1) :=
    h.withAcc (Nat.lt_succ_self _)
  have ht := hw.times T q rate (p.tickCount rate)
  rw [← Psg.resample_psg] at ht
  exact ht.withAcc (a := (p.resample T q rate).1.psgAcc) ha

/-! ## The raw sample stays under the ceiling (42 R206) -/

theorem Psg.maxHold_le (T : Config.Tables) (q : Config.Params) (rate n : Nat) (p : Psg) {raw : Nat}
    (h : raw ≤ Config.psgCeiling) : (Psg.maxHold T q rate n p raw).2 ≤ Config.psgCeiling := by
  induction n generalizing p raw with
  | zero => exact h
  | succ n ih =>
    refine ih _ (max_le h ?_)
    rw [Psg.timedTick, tick_level]
    exact mixedLevel_le T q _

/-- The weighted sum of the running average stays under the ceiling times the time it covers. -/
theorem Psg.average_le (T : Config.Tables) (q : Config.Params) (rate a0 n : Nat) (p : Psg) (v : Average)
    (hl : p.level.toNat ≤ Config.psgCeiling) (hs : v.sum ≤ Config.psgCeiling * v.t) (ht : v.t = v.k * rate - a0)
    (hn : (v.k + n) * rate ≤ a0 + Config.fInt) :
    (Psg.average T q rate a0 n p v).2.sum ≤ Config.psgCeiling * (Psg.average T q rate a0 n p v).2.t ∧
      (Psg.average T q rate a0 n p v).2.t ≤ Config.fInt ∧
      (Psg.average T q rate a0 n p v).1.level.toNat ≤ Config.psgCeiling := by
  induction n generalizing p v with
  | zero =>
    refine ⟨hs, ?_, hl⟩
    simp only [Nat.add_zero] at hn
    simp only [Psg.average]
    omega
  | succ n ih =>
    have hle : v.k * rate ≤ (v.k + 1) * rate := Nat.mul_le_mul_right _ (Nat.le_succ _)
    refine ih _ _ ?_ ?_ rfl ?_
    · rw [Psg.timedTick, tick_level]
      exact mixedLevel_le T q _
    · dsimp only
      have h1 : v.t ≤ (v.k + 1) * rate - a0 := by omega
      have h2 := Nat.mul_le_mul_right ((v.k + 1) * rate - a0 - v.t) hl
      have h3 : Config.psgCeiling * v.t + Config.psgCeiling * ((v.k + 1) * rate - a0 - v.t) =
          Config.psgCeiling * ((v.k + 1) * rate - a0) := by
        rw [← Nat.mul_add, Nat.add_sub_cancel' h1]
      omega
    · dsimp only
      rw [show v.k + 1 + n = v.k + (n + 1) by omega]
      exact hn

theorem Psg.resample_le (T : Config.Tables) (q : Config.Params) (rate : Nat) (p : Psg)
    (hl : p.level.toNat ≤ Config.psgCeiling) : (p.resample T q rate).2 ≤ Config.psgCeiling := by
  unfold Psg.resample
  dsimp only
  split
  · split
    · exact hl
    · exact Psg.maxHold_le T q rate _ _ (Nat.zero_le _)
  · dsimp only
    have h := Psg.average_le T q rate p.psgAcc (p.tickCount rate) { p with psgAcc := p.psgAcc + Config.fInt } ⟨0, 0, 0⟩
      hl (by simp) (by simp) (by
        simp only [Nat.zero_add, Psg.tickCount]
        exact Nat.div_mul_le_self _ _)
    obtain ⟨h1, h2, h3⟩ := h
    apply Nat.div_le_of_le_mul
    have h4 := Nat.mul_le_mul_right (Config.fInt - (Psg.average T q rate p.psgAcc (p.tickCount rate)
      { p with psgAcc := p.psgAcc + Config.fInt } ⟨0, 0, 0⟩).2.t) h3
    refine le_trans (Nat.add_le_add h1 h4) ?_
    rw [← Nat.mul_add, Nat.add_sub_cancel' h2, Nat.mul_comm]

/-! ## DC removal (42 R205) -/

theorem sum_set {l : List Half} {i : Nat} (v : Half) (h : i < l.length) :
    ((l.set i v).map BitVec.toNat).sum + (l.getD i 0).toNat = (l.map BitVec.toNat).sum + v.toNat := by
  induction l generalizing i with
  | nil => exact absurd h (Nat.not_lt_zero _)
  | cons x l ih =>
    cases i with
    | zero => simp; omega
    | succ i =>
      have := ih (i := i) (by simpa using h)
      simp only [List.set_cons_succ, List.map_cons, List.sum_cons, List.getD_cons_succ] at this ⊢
      omega

theorem ceiling_toNat {x : Nat} (h : x ≤ Config.psgCeiling) : (BitVec.ofNat 16 x).toNat = x := by
  rw [BitVec.toNat_ofNat, Nat.mod_eq_of_lt]
  simp only [Config.psgCeiling] at h
  omega

theorem Psg.Inv.dcPush {rate : Nat} {p : Psg} (h : p.Inv rate) {x : Nat} (hx : x ≤ Config.psgCeiling) :
    (p.dcPush x).Inv rate := by
  refine ⟨h.regs, h.tonePeriod, h.noisePeriod, h.envPeriod, h.envTab, h.toneCnt, h.noiseCnt, h.envCnt, h.lfsr,
    h.noiseBit, h.envPos, h.envAlt, h.needReset, h.psgAcc, h.level, ?_, ?_, ?_⟩
  · exact (List.length_set ..).trans h.dcLength
  · intro y hy
    rcases List.mem_or_eq_of_mem_set hy with hm | rfl
    · exact h.dcBound y hm
    · rw [ceiling_toNat hx]
      exact hx
  · have hi : p.dcIdx.val < p.dcHist.length := by rw [h.dcLength]; exact p.dcIdx.isLt
    have hs := sum_set (BitVec.ofNat 16 x) hi
    rw [ceiling_toNat hx, ← h.dcSum] at hs
    simp only [Psg.dcPush]
    omega

theorem sum_le_ceiling {l : List Half} (h : ∀ x ∈ l, x.toNat ≤ Config.psgCeiling) :
    (l.map BitVec.toNat).sum ≤ l.length * Config.psgCeiling := by
  induction l with
  | nil => simp
  | cons x l ih =>
    have h1 := h x (by simp)
    have h2 := ih fun y hy => h y (by simp [hy])
    simp only [List.map_cons, List.sum_cons, List.length_cons, Nat.succ_mul]
    omega

theorem Psg.Inv.mean_le {rate : Nat} {p : Psg} (h : p.Inv rate) : p.dcSum / Config.dcLen ≤ Config.psgCeiling := by
  have := sum_le_ceiling h.dcBound
  rw [← h.dcSum, h.dcLength] at this
  exact Nat.div_le_of_le_mul this

theorem Psg.Inv.sample {rate : Nat} {p : Psg} (h : p.Inv rate) (T : Config.Tables) (q : Config.Params) (hr : 1 ≤ rate) :
    (p.sample T q rate).1.Inv rate :=
  (h.resample T q hr).dcPush (Psg.resample_le T q rate p h.level)

/-- Every move keeps the invariant. -/
theorem PsgMove.keeps {q : Config.Params} {rate : Nat} {p p' : Psg} (hr : 1 ≤ rate) (h : PsgMove q rate p p')
    (hp : p.Inv rate) : p'.Inv rate := by
  cases h with
  | select b => exact hp.select b
  | writeRegister i v => exact hp.writeRegister i v
  | insideTimerIrq f => exact hp.insideTimerIrq f
  | reset => exact .resetOf hr q
  | tick => exact hp.tick _ _
  | sample => exact hp.sample _ _ hr

/-! ## A tick does not look at the carried time -/

/-- The PSG with x of time carried. -/
def Psg.carrying (p : Psg) (x : Nat) : Psg := { p with psgAcc := x }

theorem Psg.toneStep_carrying (p : Psg) (v : Voice) (x : Nat) : (p.carrying x).toneStep v = (p.toneStep v).carrying x := by
  unfold Psg.toneStep
  change (if atLeastOne (p.tonePeriod.get v).toNat ≤ (p.toneCnt.get v + 1).toNat then _ else _) = _
  dsimp only
  split <;> rfl

theorem Psg.noiseStep_carrying (p : Psg) (x : Nat) : (p.carrying x).noiseStep = p.noiseStep.carrying x := by
  unfold Psg.noiseStep
  change (if atLeastOne p.noisePeriod.toNat ≤ (p.noiseCnt + 1).toNat then _ else _) = _
  dsimp only
  split <;> rfl

theorem Psg.envAdvance_carrying (q : Config.Params) (p : Psg) (x : Nat) :
    Psg.envAdvance q (p.carrying x) = (Psg.envAdvance q p).carrying x := by
  unfold Psg.envAdvance
  change (if p.envPos + 1 = 32 then _ else _) = _
  split <;> rfl

theorem Psg.envStep_carrying (q : Config.Params) (p : Psg) (x : Nat) : (p.carrying x).envStep q = (p.envStep q).carrying x := by
  unfold Psg.envStep
  change (if atLeastOne p.envPeriod.toNat ≤ (p.envCnt + 1).toNat then _ else _) = _
  dsimp only
  split
  · exact Psg.envAdvance_carrying q { p with envCnt := 0 } x
  · rfl

theorem Psg.generators_carrying (q : Config.Params) (p : Psg) (x : Nat) :
    (p.carrying x).generators q = (p.generators q).carrying x := by
  have key (r : Psg) : (let r3 := if (r.carrying x).half = true then (r.carrying x).noiseStep else r.carrying x
      if (decide (q.envCadence = .full) || (r.carrying x).half) = true then r3.envStep q else r3) =
      (let r3 := if r.half = true then r.noiseStep else r
      if (decide (q.envCadence = .full) || r.half) = true then r3.envStep q else r3).carrying x := by
    rw [Psg.noiseStep_carrying, show (r.carrying x).half = r.half from rfl]
    dsimp only
    rw [← apply_ite (fun t : Psg => t.carrying x), Psg.envStep_carrying, ← apply_ite (fun t : Psg => t.carrying x)]
  unfold Psg.generators
  dsimp only
  rw [Psg.toneStep_carrying, Psg.toneStep_carrying, Psg.toneStep_carrying]
  generalize ((p.toneStep .a).toneStep .b).toneStep .c = r
  exact key { r with half := !r.half }

theorem Psg.level5_carrying (p : Psg) (x : Nat) : (p.carrying x).level5 = p.level5 := rfl

theorem Psg.mixedLevel_carrying (T : Config.Tables) (q : Config.Params) (p : Psg) (x : Nat) :
    (p.carrying x).mixedLevel T q = p.mixedLevel T q := by
  have h4 (v : Voice) : (p.carrying x).level4 v = p.level4 v := rfl
  simp only [Psg.mixedLevel, h4, Psg.level5_carrying]

theorem Psg.latchLevel_carrying (T : Config.Tables) (q : Config.Params) (p : Psg) (x : Nat) :
    (p.carrying x).latchLevel T q = (p.latchLevel T q).carrying x := by
  unfold Psg.latchLevel
  rw [Psg.mixedLevel_carrying, Psg.level5_carrying]
  generalize p.mixedLevel T q = l
  rfl

theorem Psg.tick_carrying (T : Config.Tables) (q : Config.Params) (p : Psg) (x : Nat) :
    (p.carrying x).tick T q = (p.tick T q).carrying x := by
  rw [Psg.tick, Psg.generators_carrying, Psg.latchLevel_carrying, Psg.tick]

/-- The turns of the loop of 42 R201 are ticks; the carried time only counts down. -/
theorem Psg.times_timedTick (T : Config.Tables) (q : Config.Params) (rate n : Nat) (p : Psg) :
    times (fun p => p.timedTick T q rate) n p = (times (fun p => p.tick T q) n p).carrying (p.psgAcc - n * rate) := by
  induction n with
  | zero => simp only [times, Nat.zero_mul, Nat.sub_zero]; rfl
  | succ n ih =>
    rw [times_succ, times_succ, ih, Nat.succ_mul, ← Nat.sub_sub]
    generalize times (fun p => p.tick T q) n p = r
    rw [show (r.carrying (p.psgAcc - n * rate)).timedTick T q rate =
      (r.carrying (p.psgAcc - n * rate - rate)).tick T q from rfl, Psg.tick_carrying]

theorem Psg.times_tick_carrying (T : Config.Tables) (q : Config.Params) (n : Nat) (p : Psg) (x : Nat) :
    times (fun p => p.tick T q) n (p.carrying x) = (times (fun p => p.tick T q) n p).carrying x := by
  induction n with
  | zero => rfl
  | succ n ih => rw [times_succ, times_succ, ih, Psg.tick_carrying]

/-- The weighted sum of 42 R203: each level counts for the time from the tick that set it to the next. -/
theorem Psg.average_eq (T : Config.Tables) (q : Config.Params) (rate a0 n : Nat) (p : Psg) (v : Average)
    (after : Nat → Psg) (time : Nat → Nat) (ha : ∀ k, after k = times (fun p => p.timedTick T q rate) k p)
    (ht : ∀ k, time k = if k = 0 then v.t else (v.k + k) * rate - a0) :
    (Psg.average T q rate a0 n p v).2 = ⟨v.k + n, time n,
      v.sum + ((List.range n).map fun k => (after k).level.toNat * (time (k + 1) - time k)).sum⟩ := by
  induction n generalizing p v time after with
  | zero => simp [Psg.average, ht]
  | succ n ih =>
    unfold Psg.average
    dsimp only
    rw [ih (p.timedTick T q rate) _ (fun k => after (k + 1)) (fun k => time (k + 1)) (fun k => by rw [ha]; rfl) (fun k => by
      rw [ht]
      by_cases hk : k = 0
      · simp [hk]
      · simp [hk, Nat.add_assoc, Nat.add_comm 1])]
    rw [List.range_succ_eq_map, List.map_cons, List.sum_cons, List.map_map]
    simp only [Function.comp_def, Nat.succ_eq_add_one, ha 0, times, ht 0, ht 1]
    simp [Nat.add_assoc, Nat.add_comm 1]

/-- The raw sample of 42 R202: one of the levels seen, and none of them is larger. -/
theorem Psg.maxHold_spec (T : Config.Tables) (q : Config.Params) (rate n : Nat) (p : Psg) (raw : Nat) (after : Nat → Psg)
    (ha : ∀ k, after k = times (fun p => p.timedTick T q rate) k p) :
    ((Psg.maxHold T q rate n p raw).2 = raw ∨ ∃ k, k < n ∧ (Psg.maxHold T q rate n p raw).2 = (after (k + 1)).level.toNat) ∧
      raw ≤ (Psg.maxHold T q rate n p raw).2 ∧
      ∀ k, k < n → (after (k + 1)).level.toNat ≤ (Psg.maxHold T q rate n p raw).2 := by
  induction n generalizing p raw after with
  | zero => exact ⟨.inl rfl, Nat.le_refl _, fun k h => absurd h (Nat.not_lt_zero k)⟩
  | succ n ih =>
    obtain ⟨h1, h2, h3⟩ := ih (p.timedTick T q rate) (max raw (p.timedTick T q rate).level.toNat)
      (fun k => after (k + 1)) (fun k => by rw [ha]; rfl)
    have ha1 : after (0 + 1) = p.timedTick T q rate := by rw [ha]; rfl
    rw [Psg.maxHold]
    refine ⟨?_, Nat.le_trans (Nat.le_max_left _ _) h2, fun k hk => ?_⟩
    · obtain h1 | ⟨k, hk, h1⟩ := h1
      · rcases Nat.le_total raw (p.timedTick T q rate).level.toNat with h | h
        · exact .inr ⟨0, Nat.succ_pos n, by rw [h1, ha1, Nat.max_eq_right h]⟩
        · exact .inl (by rw [h1, Nat.max_eq_left h])
      · exact .inr ⟨k + 1, Nat.succ_lt_succ hk, h1⟩
    · cases k with
      | zero => rw [ha1]; exact Nat.le_trans (Nat.le_max_right _ _) h2
      | succ k => exact h3 k (Nat.lt_of_succ_lt_succ hk)

end Sys2Proof.Machine
end

