-- ==== Sys2Proof/Laws/Timer.lean ====
section
/-! SUPPORT. The laws of the timer unit: the interrupt bits by register, what a count-down does, and that
every operation keeps the unit's invariant. -/

namespace Sys2Proof.Machine

open Sys2Proof

/-! ## The 16-bit views, by register -/

/-- The bit of a timer's channel in the A registers, and in the B registers (10 R32). -/
def bitA : Timer → Byte
  | .a => 0x20
  | .b => 0x01
  | .c => 0
  | .d => 0
def bitB : Timer → Byte
  | .a => 0
  | .b => 0
  | .c => 0x20
  | .d => 0x10

theorem hiByte_or (v w : Half) : hiByte (v ||| w) = hiByte v ||| hiByte w := by
  apply BitVec.eq_of_getLsbD_eq
  intro i hi
  simp only [hiByte, BitVec.getLsbD_extractLsb', BitVec.getLsbD_or, hi, decide_true, Bool.true_and]

theorem loByte_or (v w : Half) : loByte (v ||| w) = loByte v ||| loByte w := by
  apply BitVec.eq_of_getLsbD_eq
  intro i hi
  simp only [loByte, BitVec.getLsbD_extractLsb', BitVec.getLsbD_or, hi, decide_true, Bool.true_and]

theorem hiByte_and (v w : Half) : hiByte (v &&& w) = hiByte v &&& hiByte w := by
  apply BitVec.eq_of_getLsbD_eq
  intro i hi
  simp only [hiByte, BitVec.getLsbD_extractLsb', BitVec.getLsbD_and, hi, decide_true, Bool.true_and]

theorem loByte_and (v w : Half) : loByte (v &&& w) = loByte v &&& loByte w := by
  apply BitVec.eq_of_getLsbD_eq
  intro i hi
  simp only [loByte, BitVec.getLsbD_extractLsb', BitVec.getLsbD_and, hi, decide_true, Bool.true_and]

theorem setChannel_bytes (x y : Byte) (t : Timer) :
    hiByte (setChannel (x ++ y) (channel t)) = x ||| bitA t ∧ loByte (setChannel (x ++ y) (channel t)) = y ||| bitB t := by
  unfold setChannel
  rw [hiByte_or, loByte_or, hiByte_append, loByte_append]
  cases t <;> exact ⟨by congr 1, by congr 1⟩

theorem clearChannel_bytes (x y : Byte) (t : Timer) :
    hiByte (clearChannel (x ++ y) (channel t)) = x &&& ~~~bitA t ∧
      loByte (clearChannel (x ++ y) (channel t)) = y &&& ~~~bitB t := by
  unfold clearChannel
  rw [hiByte_and, loByte_and, hiByte_append, loByte_append]
  cases t <;> exact ⟨by congr 1, by congr 1⟩

/-- A channel's bit in a view. -/
theorem view_channel (x y : Byte) (t : Timer) :
    (x ++ y).getLsbD (channel t) =
      match t with
      | .a => x.getLsbD 5
      | .b => x.getLsbD 0
      | .c => y.getLsbD 5
      | .d => y.getLsbD 4 := by
  cases t <;> simp only [channel, BitVec.getLsbD_append] <;> rfl

/-! ## Counting -/

/-- `Timeout` touches the pending registers only (43 R244). -/
theorem Mfp.timeout_eq (m : Mfp) (t : Timer) :
    m.timeout t = if m.ier.getLsbD (channel t) = true
      then { m with ipra := m.ipra ||| bitA t, iprb := m.iprb ||| bitB t } else m := by
  unfold Mfp.timeout Mfp.withIpr Mfp.ipr
  rw [(setChannel_bytes _ _ t).1, (setChannel_bytes _ _ t).2]

/-- A count-down step either lowers the counter, or reloads it and times out (43 R243). -/
theorem Mfp.decrement_cases (m : Mfp) (t : Timer) :
    (m.cnt.get t = 1 ∧ m.decrement t = Mfp.timeout { m with cnt := m.cnt.set t (reload (m.data t)) } t) ∨
      (m.cnt.get t ≠ 1 ∧ m.decrement t = { m with cnt := m.cnt.set t (m.cnt.get t - 1) }) := by
  unfold Mfp.decrement
  split
  · exact .inl ⟨‹_›, rfl⟩
  · exact .inr ⟨‹_›, rfl⟩

/-- A count-down step touches the counter and the pending registers only. -/
theorem Mfp.decrement_eq (m : Mfp) (t : Timer) :
    m.decrement t = { m with
      cnt := m.cnt.set t (if m.cnt.get t = 1 then reload (m.data t) else m.cnt.get t - 1)
      ipra := if m.cnt.get t = 1 ∧ m.ier.getLsbD (channel t) = true then m.ipra ||| bitA t else m.ipra
      iprb := if m.cnt.get t = 1 ∧ m.ier.getLsbD (channel t) = true then m.iprb ||| bitB t else m.iprb } := by
  obtain ⟨h, e⟩ | ⟨h, e⟩ := m.decrement_cases t <;> rw [e]
  · rw [Mfp.timeout_eq]
    change (if m.ier.getLsbD (channel t) = true then _ else _) = _
    by_cases hi : m.ier.getLsbD (channel t) = true
    · simp only [h, hi, and_self, if_true]
    · simp only [h, hi, Bool.false_eq_true, and_false, if_true, if_false]
  · simp only [h, false_and, if_false]

theorem reload_bounds (b : Byte) : 1 ≤ reload b ∧ reload b ≤ 256 := by
  unfold reload
  split
  · omega
  · rename_i h
    have h0 : b.toNat ≠ 0 := fun e => h (by apply BitVec.eq_of_toNat_eq; simpa using e)
    have := b.isLt
    omega

/-! ## Bits that stay 0 -/

theorem and_keep {x m : Byte} (b : Byte) (h : x &&& m = 0) : x &&& b &&& m = 0 := by
  rw [BitVec.and_assoc, BitVec.and_comm b m, ← BitVec.and_assoc, h]; exact BitVec.zero_and

theorem zero_keep {x : Byte} (b : Byte) (h : x = 0) : x &&& b = 0 := by
  rw [h]; exact BitVec.zero_and

theorem and_masked {k m : Byte} (b : Byte) (h : k &&& m = 0) : b &&& k &&& m = 0 := by
  rw [BitVec.and_assoc, h]
  exact BitVec.and_zero

theorem or_keep {x y m : Byte} (hx : x &&& m = 0) (hy : y &&& m = 0) : (x ||| y) &&& m = 0 := by
  apply BitVec.eq_of_getLsbD_eq
  intro i hi
  have h1 := congrArg (fun v => v.getLsbD i) hx
  have h2 := congrArg (fun v => v.getLsbD i) hy
  simp only [BitVec.getLsbD_and, BitVec.getLsbD_or] at h1 h2 ⊢
  simp only [Bool.and_or_distrib_right, h1, h2]
  simp

theorem enabled_bit5 : ∀ b : Byte, b.getLsbD 5 = true → (0x20 : Byte) &&& ~~~b = 0 := by decide
theorem enabled_bit4 : ∀ b : Byte, b.getLsbD 4 = true → (0x10 : Byte) &&& ~~~b = 0 := by decide
theorem enabled_bit0 : ∀ b : Byte, b.getLsbD 0 = true → (0x01 : Byte) &&& ~~~b = 0 := by decide

/-- An enabled channel's bit is inside the enable registers. -/
theorem enabled_bits (m : Mfp) (t : Timer) (h : m.ier.getLsbD (channel t) = true) :
    bitA t &&& ~~~m.iera = 0 ∧ bitB t &&& ~~~m.ierb = 0 := by
  unfold Mfp.ier at h
  rw [view_channel] at h
  cases t
  · exact ⟨enabled_bit5 _ h, BitVec.zero_and⟩
  · exact ⟨enabled_bit0 _ h, BitVec.zero_and⟩
  · exact ⟨BitVec.zero_and, enabled_bit5 _ h⟩
  · exact ⟨BitVec.zero_and, enabled_bit4 _ h⟩

theorem bits_timer (t : Timer) : bitA t &&& 0xDE = 0 ∧ bitB t &&& 0xCF = 0 := by
  cases t <;> decide

/-! ## The invariant -/

theorem Mfp.Inv.decrement {rate : Nat} {m : Mfp} (h : m.Inv rate) (t : Timer) : (m.decrement t).Inv rate := by
  rw [Mfp.decrement_eq]
  refine ⟨h.tacr, h.tbcr, h.tcdcr, h.vr, ?_, ?_, ?_, ?_, h.serviceA, h.serviceB, h.endOfInterrupt, fun u => ?_, h.tacc⟩
  · dsimp only
    split
    · exact or_keep h.enabledA (enabled_bits m t (by tauto)).1
    · exact h.enabledA
  · dsimp only
    split
    · exact or_keep h.enabledB (enabled_bits m t (by tauto)).2
    · exact h.enabledB
  · dsimp only
    split
    · exact or_keep h.pendingA (bits_timer t).1
    · exact h.pendingA
  · dsimp only
    split
    · exact or_keep h.pendingB (bits_timer t).2
    · exact h.pendingB
  · dsimp only
    by_cases hu : u = t
    · subst hu
      rw [PerTimer.get_set_same]
      have := h.cnt u
      split
      · exact reload_bounds _
      · omega
    · rw [PerTimer.get_set_other _ hu]
      exact h.cnt u

theorem Mfp.decrement_tacc (m : Mfp) (t : Timer) : (m.decrement t).tacc = m.tacc := by rw [Mfp.decrement_eq]

theorem Mfp.decrement_modes (m : Mfp) (t u : Timer) : (m.decrement t).timerMode u = m.timerMode u := by
  rw [Mfp.decrement_eq]
  cases u <;> rfl

theorem Mfp.Inv.times {rate : Nat} {m : Mfp} (h : m.Inv rate) (t : Timer) (n : Nat) :
    (times (fun m => Mfp.decrement m t) n m).Inv rate := by
  induction n generalizing m with
  | zero => exact h
  | succ n ih => exact ih (h.decrement t)

theorem Mfp.times_decrement (m : Mfp) (t : Timer) (n : Nat) :
    (times (fun m => Mfp.decrement m t) n m).tacc = m.tacc ∧
      ∀ u, (times (fun m => Mfp.decrement m t) n m).timerMode u = m.timerMode u := by
  induction n generalizing m with
  | zero => exact ⟨rfl, fun _ => rfl⟩
  | succ n ih =>
    obtain ⟨h1, h2⟩ := ih (m.decrement t)
    refine ⟨?_, fun u => ?_⟩
    · simp only [Machine.times]
      rw [h1, Mfp.decrement_tacc]
    · simp only [Machine.times]
      rw [h2, Mfp.decrement_modes]

theorem prescaleOf_pos {n : Nat} (h : Config.prescaleOf n ≠ 0) : 4 ≤ Config.prescaleOf n := by
  unfold Config.prescaleOf at h ⊢
  split at h <;> simp_all

theorem Mfp.Inv.withTacc {rate : Nat} {m : Mfp} (h : m.Inv rate) {c : PerTimer Nat}
    (hc : ∀ u, m.prescale u ≠ 0 → c.get u < m.prescale u * rate) : ({ m with tacc := c } : Mfp).Inv rate :=
  ⟨h.tacr, h.tbcr, h.tcdcr, h.vr, h.enabledA, h.enabledB, h.pendingA, h.pendingB, h.serviceA, h.serviceB,
    h.endOfInterrupt, h.cnt, fun u => by have hu := hc u; cases u <;> exact hu⟩

theorem Mfp.times_prescale (m : Mfp) (t u : Timer) (n : Nat) :
    (Machine.times (fun m => Mfp.decrement m t) n m).prescale u = m.prescale u := by
  unfold Mfp.prescale
  rw [(m.times_decrement t n).2 u]

theorem Mfp.Inv.tick {rate : Nat} (hr : 1 ≤ rate) {m : Mfp} (h : m.Inv rate) (t : Timer) : (m.tick rate t).Inv rate := by
  unfold Mfp.tick
  split
  · exact h
  · rename_i hp
    unfold Mfp.countdown
    refine Mfp.Inv.withTacc (h.times t (m.countdownTurns rate t)) fun u hu => ?_
    rw [Mfp.times_prescale] at hu ⊢
    generalize m.tacc.get t + Config.mfpClock = x
    by_cases e : u = t
    · subst e
      rw [PerTimer.get_set_same]
      exact Nat.mod_lt _ (Nat.mul_pos (Nat.pos_of_ne_zero hp) hr)
    · rw [PerTimer.get_set_other _ e]
      exact h.tacc u hu

theorem Mfp.Inv.event {rate : Nat} {m : Mfp} (h : m.Inv rate) (t : Timer) : (m.event t).Inv rate := by
  unfold Mfp.event
  split
  · exact h.decrement .a
  · exact h

/-- `Acknowledge` by register (43 R263). -/
theorem Mfp.acknowledge_eq (m : Mfp) (t : Timer) :
    m.acknowledge t = { m with
      ipra := m.ipra &&& ~~~bitA t
      iprb := m.iprb &&& ~~~bitB t
      isra := if m.vr.getLsbD 3 = true then m.isra ||| bitA t else m.isra
      isrb := if m.vr.getLsbD 3 = true then m.isrb ||| bitB t else m.isrb } := by
  unfold Mfp.acknowledge Mfp.withIpr Mfp.ipr
  dsimp only
  rw [(clearChannel_bytes _ _ t).1, (clearChannel_bytes _ _ t).2]
  by_cases hv : m.vr.getLsbD 3 = true
  · rw [if_pos hv, if_pos hv, if_pos hv]
    unfold Mfp.withIsr Mfp.isr
    rw [(setChannel_bytes _ _ t).1, (setChannel_bytes _ _ t).2]
  · rw [if_neg hv, if_neg hv, if_neg hv]

theorem Mfp.Inv.acknowledge {rate : Nat} {m : Mfp} (h : m.Inv rate) (t : Timer) : (m.acknowledge t).Inv rate := by
  rw [Mfp.acknowledge_eq]
  refine ⟨h.tacr, h.tbcr, h.tcdcr, h.vr, and_keep _ h.enabledA, and_keep _ h.enabledB, and_keep _ h.pendingA,
    and_keep _ h.pendingB, ?_, ?_, fun hv => ?_, h.cnt, h.tacc⟩
  · dsimp only
    split
    · exact or_keep h.serviceA (bits_timer t).1
    · exact h.serviceA
  · dsimp only
    split
    · exact or_keep h.serviceB (bits_timer t).2
    · exact h.serviceB
  · dsimp only at hv ⊢
    rw [if_neg (by rw [hv]; exact Bool.false_ne_true), if_neg (by rw [hv]; exact Bool.false_ne_true)]
    exact h.endOfInterrupt hv

theorem Mfp.Inv.resetAll {rate : Nat} : Mfp.resetAll.Inv rate where
  tacr := by decide
  tbcr := by decide
  tcdcr := by decide
  vr := by decide
  enabledA := by decide
  enabledB := by decide
  pendingA := by decide
  pendingB := by decide
  serviceA := by decide
  serviceB := by decide
  endOfInterrupt := fun _ => ⟨rfl, rfl⟩
  cnt := fun t => by cases t <;> decide
  tacc := fun t ht => by cases t <;> exact absurd rfl ht

/-- A control register's new mode restarts the prescale phase of the timers whose mode changed (43 R241). -/
theorem Mfp.restart_get (old m : Mfp) (t u : Timer) :
    (Mfp.restartIfChanged old m t).tacc.get u =
      if u = t ∧ m.timerMode t ≠ old.timerMode t then 0 else m.tacc.get u := by
  unfold Mfp.restartIfChanged
  by_cases h : m.timerMode t = old.timerMode t
  · simp [h]
  · rw [if_neg h]
    by_cases hu : u = t
    · subst hu; simp [h]
    · simp [hu, PerTimer.get_set_other]

theorem Mfp.restart_eq (old m : Mfp) (t : Timer) :
    Mfp.restartIfChanged old m t = { m with tacc := (Mfp.restartIfChanged old m t).tacc } := by
  unfold Mfp.restartIfChanged
  split <;> rfl

theorem Mfp.restart_mode (old m : Mfp) (t u : Timer) : (Mfp.restartIfChanged old m t).timerMode u = m.timerMode u := by
  rw [Mfp.restart_eq]
  cases u <;> rfl

/-- A write of `TCDCR`: each of its two timers restarts its phase if its mode changed (43 R241). -/
theorem Mfp.write_tcdcr (m : Mfp) (b : Byte) :
    m.write .tcdcr b =
      let k : Mfp := { m with tcdcr := b &&& 0x77 }
      let w := if k.timerMode .c = m.timerMode .c then m.tacc else m.tacc.set .c 0
      { k with tacc := if k.timerMode .d = m.timerMode .d then w else w.set .d 0 } := by
  change Mfp.restartIfChanged m (Mfp.restartIfChanged m { m with tcdcr := b &&& 0x77 } .c) .d = _
  unfold Mfp.restartIfChanged
  by_cases hc : ({ m with tcdcr := b &&& 0x77 } : Mfp).timerMode .c = m.timerMode .c
  · simp only [if_pos hc]
    split_ifs <;> rfl
  · simp only [if_neg hc]
    by_cases hd : ({ m with tcdcr := b &&& 0x77 } : Mfp).timerMode .d = m.timerMode .d
    · rw [if_pos hd]
      exact if_pos hd
    · rw [if_neg hd]
      exact if_neg hd

/-- The prescale phase after a control write: it is 0 where the mode changed. -/
theorem Mfp.Inv.control {rate : Nat} (hr : 1 ≤ rate) {m : Mfp} (h : m.Inv rate) {x y z : Byte} {w : PerTimer Nat}
    (hx : x &&& 0xF0 = 0) (hy : y &&& 0xF0 = 0) (hz : z &&& 0x88 = 0)
    (hw : ∀ u, w.get u = m.tacc.get u ∧
      ({ m with tacr := x, tbcr := y, tcdcr := z, tacc := w } : Mfp).timerMode u = m.timerMode u ∨ w.get u = 0) :
    ({ m with tacr := x, tbcr := y, tcdcr := z, tacc := w } : Mfp).Inv rate := by
  refine ⟨hx, hy, hz, h.vr, h.enabledA, h.enabledB, h.pendingA, h.pendingB, h.serviceA, h.serviceB, h.endOfInterrupt,
    h.cnt, fun u hp => ?_⟩
  rcases hw u with ⟨h1, h2⟩ | h0
  · unfold Mfp.prescale at hp ⊢
    rw [h2] at hp ⊢
    exact h1 ▸ h.tacc u hp
  · dsimp only
    rw [h0]
    exact Nat.mul_pos (Nat.pos_of_ne_zero hp) hr

theorem Mfp.load_get (m : Mfp) (t u : Timer) :
    (m.loadIfStopped t).cnt.get u =
      if u = t ∧ m.timerMode t = 0 then reload (m.data t) else m.cnt.get u := by
  unfold Mfp.loadIfStopped
  by_cases h : m.timerMode t = 0
  · rw [if_pos h]
    by_cases hu : u = t
    · subst hu; simp [h]
    · simp [hu, PerTimer.get_set_other]
  · simp [h]

theorem Mfp.load_eq (m : Mfp) (t : Timer) : m.loadIfStopped t = { m with cnt := (m.loadIfStopped t).cnt } := by
  unfold Mfp.loadIfStopped
  split <;> rfl

theorem Mfp.Inv.load {rate : Nat} {m : Mfp} (h : m.Inv rate) (t : Timer) : (m.loadIfStopped t).Inv rate := by
  have hg := m.load_get t
  rw [Mfp.load_eq]
  refine ⟨h.tacr, h.tbcr, h.tcdcr, h.vr, h.enabledA, h.enabledB, h.pendingA, h.pendingB, h.serviceA, h.serviceB,
    h.endOfInterrupt, fun u => ?_, h.tacc⟩
  dsimp only
  rw [hg u]
  split
  · exact reload_bounds _
  · exact h.cnt u

theorem Mfp.Inv.write {rate : Nat} (hr : 1 ≤ rate) {m : Mfp} (h : m.Inv rate) (r : MfpReg) (b : Byte) :
    (m.write r b).Inv rate := by
  cases r with
  | gpip | aer | ddr | scr | ucr | rsr | tsr | udr | imra | imrb =>
    exact ⟨h.tacr, h.tbcr, h.tcdcr, h.vr, h.enabledA, h.enabledB, h.pendingA, h.pendingB, h.serviceA, h.serviceB,
      h.endOfInterrupt, h.cnt, h.tacc⟩
  | iera =>
    exact ⟨h.tacr, h.tbcr, h.tcdcr, h.vr, and_masked _ (BitVec.and_not_self b), h.enabledB, and_keep _ h.pendingA,
      h.pendingB, h.serviceA, h.serviceB, h.endOfInterrupt, h.cnt, h.tacc⟩
  | ierb =>
    exact ⟨h.tacr, h.tbcr, h.tcdcr, h.vr, h.enabledA, and_masked _ (BitVec.and_not_self b), h.pendingA,
      and_keep _ h.pendingB, h.serviceA, h.serviceB, h.endOfInterrupt, h.cnt, h.tacc⟩
  | ipra =>
    exact ⟨h.tacr, h.tbcr, h.tcdcr, h.vr, and_keep _ h.enabledA, h.enabledB, and_keep _ h.pendingA, h.pendingB,
      h.serviceA, h.serviceB, h.endOfInterrupt, h.cnt, h.tacc⟩
  | iprb =>
    exact ⟨h.tacr, h.tbcr, h.tcdcr, h.vr, h.enabledA, and_keep _ h.enabledB, h.pendingA, and_keep _ h.pendingB,
      h.serviceA, h.serviceB, h.endOfInterrupt, h.cnt, h.tacc⟩
  | isra =>
    exact ⟨h.tacr, h.tbcr, h.tcdcr, h.vr, h.enabledA, h.enabledB, h.pendingA, h.pendingB, and_keep _ h.serviceA,
      h.serviceB, fun hv => ⟨zero_keep b (h.endOfInterrupt hv).1, (h.endOfInterrupt hv).2⟩, h.cnt, h.tacc⟩
  | isrb =>
    exact ⟨h.tacr, h.tbcr, h.tcdcr, h.vr, h.enabledA, h.enabledB, h.pendingA, h.pendingB, h.serviceA,
      and_keep _ h.serviceB, fun hv => ⟨(h.endOfInterrupt hv).1, zero_keep b (h.endOfInterrupt hv).2⟩, h.cnt, h.tacc⟩
  | vr =>
    unfold Mfp.write
    dsimp only
    split
    · rename_i hv
      exact ⟨h.tacr, h.tbcr, h.tcdcr, and_masked _ (by decide), h.enabledA, h.enabledB, h.pendingA, h.pendingB,
        h.serviceA, h.serviceB, fun hn => absurd hv (by rw [hn]; exact Bool.false_ne_true), h.cnt, h.tacc⟩
    · exact ⟨h.tacr, h.tbcr, h.tcdcr, and_masked _ (by decide), h.enabledA, h.enabledB, h.pendingA, h.pendingB,
        BitVec.zero_and, BitVec.zero_and, fun _ => ⟨rfl, rfl⟩, h.cnt, h.tacc⟩
  | tacr =>
    have hg := Mfp.restart_get m { m with tacr := b &&& 0x0F } .a
    change (Mfp.restartIfChanged m { m with tacr := b &&& 0x0F } .a).Inv rate
    rw [Mfp.restart_eq]
    refine h.control hr (x := b &&& 0x0F) (and_masked _ (by decide)) h.tbcr h.tcdcr fun u => ?_
    rw [hg u]
    by_cases hu : u = .a ∧ ({ m with tacr := b &&& 0x0F } : Mfp).timerMode .a ≠ m.timerMode .a
    · exact .inr (if_pos hu)
    · refine .inl ⟨if_neg hu, ?_⟩
      cases u
      case a => by_contra hc; exact hu ⟨rfl, hc⟩
      all_goals rfl
  | tbcr =>
    have hg := Mfp.restart_get m { m with tbcr := b &&& 0x0F } .b
    change (Mfp.restartIfChanged m { m with tbcr := b &&& 0x0F } .b).Inv rate
    rw [Mfp.restart_eq]
    refine h.control hr (y := b &&& 0x0F) h.tacr (and_masked _ (by decide)) h.tcdcr fun u => ?_
    rw [hg u]
    by_cases hu : u = .b ∧ ({ m with tbcr := b &&& 0x0F } : Mfp).timerMode .b ≠ m.timerMode .b
    · exact .inr (if_pos hu)
    · refine .inl ⟨if_neg hu, ?_⟩
      cases u
      case b => by_contra hc; exact hu ⟨rfl, hc⟩
      all_goals rfl
  | tcdcr =>
    rw [Mfp.write_tcdcr]
    refine h.control hr (z := b &&& 0x77) h.tacr h.tbcr (and_masked _ (by decide)) fun u => ?_
    cases u
    · exact .inl ⟨by split_ifs <;> rfl, rfl⟩
    · exact .inl ⟨by split_ifs <;> rfl, rfl⟩
    · by_cases hc : ({ m with tcdcr := b &&& 0x77 } : Mfp).timerMode .c = m.timerMode .c
      · exact .inl ⟨by rw [if_pos hc]; split_ifs <;> rfl, hc⟩
      · exact .inr (by rw [if_neg hc]; split_ifs <;> rfl)
    · by_cases hd : ({ m with tcdcr := b &&& 0x77 } : Mfp).timerMode .d = m.timerMode .d
      · exact .inl ⟨by rw [if_pos hd]; split_ifs <;> rfl, hd⟩
      · exact .inr (by rw [if_neg hd]; split_ifs <;> rfl)
  | tadr =>
    refine Mfp.Inv.load (m := { m with tadr := b }) ?_ .a
    exact ⟨h.tacr, h.tbcr, h.tcdcr, h.vr, h.enabledA, h.enabledB, h.pendingA, h.pendingB, h.serviceA, h.serviceB,
      h.endOfInterrupt, h.cnt, h.tacc⟩
  | tbdr =>
    refine Mfp.Inv.load (m := { m with tbdr := b }) ?_ .b
    exact ⟨h.tacr, h.tbcr, h.tcdcr, h.vr, h.enabledA, h.enabledB, h.pendingA, h.pendingB, h.serviceA, h.serviceB,
      h.endOfInterrupt, h.cnt, h.tacc⟩
  | tcdr =>
    refine Mfp.Inv.load (m := { m with tcdr := b }) ?_ .c
    exact ⟨h.tacr, h.tbcr, h.tcdcr, h.vr, h.enabledA, h.enabledB, h.pendingA, h.pendingB, h.serviceA, h.serviceB,
      h.endOfInterrupt, h.cnt, h.tacc⟩
  | tddr =>
    refine Mfp.Inv.load (m := { m with tddr := b }) ?_ .d
    exact ⟨h.tacr, h.tbcr, h.tcdcr, h.vr, h.enabledA, h.enabledB, h.pendingA, h.pendingB, h.serviceA, h.serviceB,
      h.endOfInterrupt, h.cnt, h.tacc⟩

/-- Every move keeps the invariant. -/
theorem MfpMove.keeps {rate : Nat} {m m' : Mfp} (hr : 1 ≤ rate) (h : MfpMove rate m m') (hm : m.Inv rate) :
    m'.Inv rate := by
  cases h with
  | write r b => exact hm.write hr r b
  | tick t => exact hm.tick hr t
  | acknowledge t => exact hm.acknowledge t
  | event t => exact hm.event t
  | reset => exact .resetAll

end Sys2Proof.Machine
end

