-- ==== Sys2Proof/Laws/Dma.lean ====
section
/-! SUPPORT. The laws of the DMA unit: frame bounds stay even, playback stays in RAM, the loop of 44 R310
carries less than one sample of time; and the invariants that moves of the machine keep. -/

namespace Sys2Proof.Machine

open Sys2Proof

/-! ## Frame bounds -/

theorem withHigh_even {f : BitVec 22} (b : Byte) (h : f.getLsbD 0 = false) : (withHigh f b).getLsbD 0 = false := by
  simp only [withHigh, BitVec.getLsbD_append, BitVec.getLsbD_extractLsb']
  simpa using h

theorem withMid_even {f : BitVec 22} (b : Byte) (h : f.getLsbD 0 = false) : (withMid f b).getLsbD 0 = false := by
  simp only [withMid, BitVec.getLsbD_append, BitVec.getLsbD_extractLsb']
  simpa using h

theorem withLow_even (f : BitVec 22) (b : Byte) : (withLow f b).getLsbD 0 = false := by
  simp only [withLow, BitVec.getLsbD_append]
  simp

/-- An even frame address has room for a stereo frame below the end of RAM (44 R312). -/
theorem even_bound {f : BitVec 22} (h : f.getLsbD 0 = false) : f.toNat + 1 < Config.ramSize := by
  have h1 := f.isLt
  have h2 : f.toNat % 2 = 0 := by simpa [BitVec.getLsbD, Nat.testBit_zero] using h
  simp only [Config.ramSize]
  omega

theorem setWidth24_toNat (f : BitVec 22) : (f.setWidth 24).toNat = f.toNat := by
  rw [BitVec.toNat_setWidth, Nat.mod_eq_of_lt]
  have := f.isLt
  omega

/-! ## Register writes -/

theorem Dma.Inv.latch {rate : Nat} {d : Dma} (h : d.Inv rate) : d.latch.Inv rate := by
  refine ⟨h.frameStart, h.frameEnd, h.frameStart, h.frameEnd, h.mode, h.dacc, ?_, fun _ => ?_⟩
  · change (d.frameStart.setWidth 24).toNat ≤ _
    rw [setWidth24_toNat]
    exact Nat.le_of_lt (Nat.lt_of_succ_lt (even_bound h.frameStart))
  · change (d.frameStart.setWidth 24).toNat + 1 < _
    rw [setWidth24_toNat]
    exact even_bound h.frameStart

theorem Dma.Inv.writeCtrl {rate : Nat} (hr : 1 ≤ rate) {d : Dma} (h : d.Inv rate) (b : Byte) : (d.writeCtrl b).Inv rate := by
  unfold Dma.writeCtrl
  dsimp only
  split
  · refine ⟨h.frameStart, h.frameEnd, h.frameStart, h.frameEnd, h.mode, hr, ?_, fun _ => ?_⟩
    · change (d.frameStart.setWidth 24).toNat ≤ _
      rw [setWidth24_toNat]
      exact Nat.le_of_lt (Nat.lt_of_succ_lt (even_bound h.frameStart))
    · change (d.frameStart.setWidth 24).toNat + 1 < _
      rw [setWidth24_toNat]
      exact even_bound h.frameStart
  · rename_i hc
    refine ⟨h.frameStart, h.frameEnd, h.curStart, h.curEnd, h.mode, h.dacc, h.ptr, fun hp => h.inRam ?_⟩
    have hb : b.getLsbD 0 = true := by
      simpa [Dma.playing, BitVec.getLsbD_extractLsb'] using hp
    simp only [hb, Bool.and_true, Bool.not_eq_true', Bool.not_eq_false] at hc
    exact hc

theorem Dma.Inv.write {rate : Nat} (hr : 1 ≤ rate) {d : Dma} (h : d.Inv rate) (r : DmaReg) (b : Byte) :
    (d.write r b).Inv rate := by
  cases r with
  | ctrl => exact h.writeCtrl hr b
  | startH => exact ⟨withHigh_even b h.frameStart, h.frameEnd, h.curStart, h.curEnd, h.mode, h.dacc, h.ptr, h.inRam⟩
  | startM => exact ⟨withMid_even b h.frameStart, h.frameEnd, h.curStart, h.curEnd, h.mode, h.dacc, h.ptr, h.inRam⟩
  | startL => exact ⟨withLow_even _ b, h.frameEnd, h.curStart, h.curEnd, h.mode, h.dacc, h.ptr, h.inRam⟩
  | endH => exact ⟨h.frameStart, withHigh_even b h.frameEnd, h.curStart, h.curEnd, h.mode, h.dacc, h.ptr, h.inRam⟩
  | endM => exact ⟨h.frameStart, withMid_even b h.frameEnd, h.curStart, h.curEnd, h.mode, h.dacc, h.ptr, h.inRam⟩
  | endL => exact ⟨h.frameStart, withLow_even _ b, h.curStart, h.curEnd, h.mode, h.dacc, h.ptr, h.inRam⟩
  | mode =>
    exact ⟨h.frameStart, h.frameEnd, h.curStart, h.curEnd, and_masked _ (by decide), h.dacc, h.ptr, h.inRam⟩
  | mwDataH | mwDataL | mwMaskH | mwMaskL =>
    exact ⟨h.frameStart, h.frameEnd, h.curStart, h.curEnd, h.mode, h.dacc, h.ptr, h.inRam⟩

theorem Dma.Inv.resetAll {rate : Nat} (hr : 1 ≤ rate) : Dma.resetAll.Inv rate :=
  ⟨rfl, rfl, rfl, rfl, by decide, hr, by decide, by decide⟩

theorem DmaMove.keeps {rate : Nat} {d d' : Dma} (hr : 1 ≤ rate) (h : DmaMove d d') (hd : d.Inv rate) : d'.Inv rate := by
  cases h with
  | write r b => exact hd.write hr r b
  | mwData w | mwMask w =>
    exact ⟨hd.frameStart, hd.frameEnd, hd.curStart, hd.curEnd, hd.mode, hd.dacc, hd.ptr, hd.inRam⟩
  | reset => exact .resetAll hr

/-! ## One sample -/

theorem frameSize_bounds (d : Dma) : 1 ≤ d.frameSize ∧ d.frameSize ≤ 2 := by
  unfold Dma.frameSize
  split <;> omega

theorem ptr_advance {rate : Nat} {d : Dma} (h : d.Inv rate) (hp : d.playing = true) :
    (d.ptr + BitVec.ofNat 24 d.frameSize).toNat = d.ptr.toNat + d.frameSize := by
  have h1 := h.inRam hp
  have h2 := frameSize_bounds d
  simp only [Config.ramSize] at h1
  rw [BitVec.toNat_add, BitVec.toNat_ofNat]
  omega

/-- The end of a frame leaves a legal unit: latched again, or stopped with the pointer just past the
frame (44 R311). -/
theorem Dma.Inv.endOfFrame {rate : Nat} {d : Dma} (h : d.Inv rate) : d.endOfFrame.Inv rate := by
  unfold Dma.endOfFrame
  split
  · exact h.latch
  · refine ⟨h.frameStart, h.frameEnd, h.curStart, h.curEnd, h.mode, h.dacc, h.ptr, fun hp => ?_⟩
    have : (d.ctrl &&& 2).getLsbD 0 = true := hp
    rw [BitVec.getLsbD_and] at this
    simp at this

/-- What the loop of 44 R310 keeps, whatever bound is put on the time carried into it. -/
theorem dmaAdvance_keeps {bound mrate : Nat} (rate n : Nat) {d : Dma} {m : Mfp} (h : d.Inv bound) (hm : m.Inv mrate)
    (hp : d.playing = true) : (dmaAdvance rate n d m).1.Inv bound ∧ (dmaAdvance rate n d m).2.Inv mrate := by
  induction n generalizing d m with
  | zero => exact ⟨h, hm⟩
  | succ n ih =>
    have hadv := ptr_advance h hp
    have hin := h.inRam hp
    have hsz := frameSize_bounds d
    have hacc : d.dacc - rate < bound := Nat.lt_of_le_of_lt (Nat.sub_le _ _) h.dacc
    unfold dmaAdvance
    dsimp only
    split
    · rename_i hend
      have hs : ({ d with ctrl := d.ctrl &&& 2, dacc := d.dacc - rate, ptr := d.ptr + BitVec.ofNat 24 d.frameSize } :
          Dma).Inv bound := by
        refine ⟨h.frameStart, h.frameEnd, h.curStart, h.curEnd, h.mode, hacc, ?_, fun hq => ?_⟩
        · dsimp only
          rw [hadv]
          simp only [Config.ramSize] at *
          omega
        · have : (d.ctrl &&& 2).getLsbD 0 = true := hq
          rw [BitVec.getLsbD_and] at this
          simp at this
      have hl : ({ d with dacc := d.dacc - rate, ptr := d.ptr + BitVec.ofNat 24 d.frameSize } : Dma).latch.Inv bound := by
        refine ⟨h.frameStart, h.frameEnd, h.frameStart, h.frameEnd, h.mode, hacc, ?_, fun _ => ?_⟩
        · change (d.frameStart.setWidth 24).toNat ≤ _
          rw [setWidth24_toNat]
          exact Nat.le_of_lt (Nat.lt_of_succ_lt (even_bound h.frameStart))
        · change (d.frameStart.setWidth 24).toNat + 1 < _
          rw [setWidth24_toNat]
          exact even_bound h.frameStart
      have he : ({ d with dacc := d.dacc - rate, ptr := d.ptr + BitVec.ofNat 24 d.frameSize } : Dma).endOfFrame.Inv
          bound := by
        unfold Dma.endOfFrame
        split
        · exact hl
        · exact hs
      split
      · rename_i hplay
        exact ih he (hm.event .a) hplay
      · refine ⟨⟨he.frameStart, he.frameEnd, he.curStart, he.curEnd, he.mode, ?_, he.ptr, he.inRam⟩, hm.event .a⟩
        exact Nat.lt_of_le_of_lt (Nat.zero_le _) h.dacc
    · rename_i hend
      refine ih (d := { d with dacc := d.dacc - rate, ptr := d.ptr + BitVec.ofNat 24 d.frameSize }) ?_ hm hp
      refine ⟨h.frameStart, h.frameEnd, h.curStart, h.curEnd, h.mode, hacc, ?_, fun _ => ?_⟩
      · dsimp only
        rw [hadv]
        simp only [Config.ramSize] at *
        omega
      · have hb := even_bound h.curEnd
        dsimp only at hend ⊢
        omega

/-- The time left after the loop: what does not make up a whole sample, or none after a stop. -/
theorem dmaAdvance_dacc (rate n : Nat) (d : Dma) (m : Mfp) :
    (dmaAdvance rate n d m).1.dacc = d.dacc - n * rate ∨ (dmaAdvance rate n d m).1.dacc = 0 := by
  induction n generalizing d m with
  | zero => left; simp [dmaAdvance]
  | succ n ih =>
    have hsub : d.dacc - (n + 1) * rate = d.dacc - rate - n * rate := by
      rw [Nat.succ_mul, Nat.sub_sub, Nat.add_comm]
    unfold dmaAdvance
    dsimp only
    split
    · split
      · have hd : ({ d with dacc := d.dacc - rate, ptr := d.ptr + BitVec.ofNat 24 d.frameSize } : Dma).endOfFrame.dacc =
            d.dacc - rate := by
          unfold Dma.endOfFrame
          split <;> rfl
        have hi := ih ({ d with dacc := d.dacc - rate, ptr := d.ptr + BitVec.ofNat 24 d.frameSize } : Dma).endOfFrame (m.event .a)
        rw [hd] at hi
        rw [hsub]
        exact hi
      · exact .inr rfl
    · rw [hsub]
      exact ih _ _

theorem Dma.Inv.withDacc {bound rate : Nat} {d : Dma} (h : d.Inv bound) {x : Nat} (hx : x < rate) :
    ({ d with dacc := x } : Dma).Inv rate :=
  ⟨h.frameStart, h.frameEnd, h.curStart, h.curEnd, h.mode, hx, h.ptr, h.inRam⟩

/-- Producing a sample keeps the DMA unit and the timer unit legal. -/
theorem dmaSample_keeps {rate mrate : Nat} (hr : 1 ≤ rate) (mem : Memory) {d : Dma} {m : Mfp} (h : d.Inv rate)
    (hm : m.Inv mrate) : (dmaSample rate mem d m).1.1.Inv rate ∧ (dmaSample rate mem d m).1.2.Inv mrate := by
  unfold dmaSample
  split
  · rename_i hp
    dsimp only
    generalize d.rate = r
    have hw : ({ d with dacc := d.dacc + r } : Dma).Inv (d.dacc + r + 1) := h.withDacc (Nat.lt_succ_self _)
    have hk := dmaAdvance_keeps rate ((d.dacc + r) / rate) hw hm hp
    refine ⟨?_, hk.2⟩
    have hacc : (dmaAdvance rate ((d.dacc + r) / rate) { d with dacc := d.dacc + r } m).1.dacc < rate := by
      rcases dmaAdvance_dacc rate ((d.dacc + r) / rate) { d with dacc := d.dacc + r } m with e | e
      · rw [e]
        dsimp only
        rw [← Nat.mod_eq_sub_div_mul]
        exact Nat.mod_lt _ hr
      · rw [e]
        exact hr
    exact hk.1.withDacc hacc
  · exact ⟨h, hm⟩

/-- Producing a sample keeps the timer unit legal, whatever the DMA unit holds. -/
theorem dmaAdvance_mfp {mrate : Nat} (rate n : Nat) (d : Dma) {m : Mfp} (hm : m.Inv mrate) :
    (dmaAdvance rate n d m).2.Inv mrate := by
  induction n generalizing d m with
  | zero => exact hm
  | succ n ih =>
    unfold dmaAdvance
    dsimp only
    split
    · split
      · exact ih _ (hm.event .a)
      · exact hm.event .a
    · exact ih _ hm

theorem dmaSample_mfp {mrate : Nat} (rate : Nat) (mem : Memory) (d : Dma) {m : Mfp} (hm : m.Inv mrate) :
    (dmaSample rate mem d m).1.2.Inv mrate := by
  unfold dmaSample
  split
  · exact dmaAdvance_mfp _ _ _ hm
  · exact hm

/-! ## The loop of 44 R310 as its advances -/

/-- The unit with x of time carried. -/
def Dma.carrying (d : Dma) (x : Nat) : Dma := { d with dacc := x }

/-- The pointer one frame on. -/
def Dma.moved (d : Dma) : Dma := { d with ptr := d.ptr + BitVec.ofNat 24 d.frameSize }

/-- One advance, the carried time apart; a stopped unit stays (44 R310, R311). -/
def Dma.advanceOnce (x : Dma × Mfp) : Dma × Mfp :=
  if x.1.playing = false then x
  else if x.1.moved.curEnd.toNat ≤ x.1.moved.ptr.toNat then (x.1.moved.endOfFrame, x.2.event .a)
  else (x.1.moved, x.2)

theorem times_advance_stopped (n : Nat) {x : Dma × Mfp} (h : x.1.playing = false) : times Dma.advanceOnce n x = x := by
  have h1 : Dma.advanceOnce x = x := if_pos h
  induction n with
  | zero => rfl
  | succ n ih => simp only [times, h1, ih]

theorem Dma.endOfFrame_carrying (d : Dma) (x : Nat) : (d.carrying x).endOfFrame = d.endOfFrame.carrying x := by
  unfold Dma.endOfFrame
  change (if d.looping = true then _ else _) = _
  split <;> rfl

theorem dmaAdvance_succ (rate n : Nat) (d : Dma) (m : Mfp) (a : Nat) :
    dmaAdvance rate (n + 1) (d.carrying a) m =
      if d.moved.curEnd.toNat ≤ d.moved.ptr.toNat then
        if d.moved.endOfFrame.playing = true then dmaAdvance rate n (d.moved.endOfFrame.carrying (a - rate)) (m.event .a)
        else (d.moved.endOfFrame.carrying 0, m.event .a)
      else dmaAdvance rate n (d.moved.carrying (a - rate)) m := by
  change (if d.moved.curEnd.toNat ≤ d.moved.ptr.toNat then
    if (d.moved.carrying (a - rate)).endOfFrame.playing = true then
      dmaAdvance rate n (d.moved.carrying (a - rate)).endOfFrame (m.event .a)
    else ((d.moved.carrying (a - rate)).endOfFrame.carrying 0, m.event .a)
    else dmaAdvance rate n (d.moved.carrying (a - rate)) m) = _
  rw [Dma.endOfFrame_carrying]
  rfl

/-- The loop is its advances one after the other; the time carried is what they leave over, or none once the
unit has stopped. -/
theorem dmaAdvance_eq_times (rate n : Nat) (d : Dma) (m : Mfp) (a : Nat) (hp : d.playing = true) :
    dmaAdvance rate n (d.carrying a) m =
      ((times Dma.advanceOnce n (d, m)).1.carrying
          (if (times Dma.advanceOnce n (d, m)).1.playing = true then a - n * rate else 0),
        (times Dma.advanceOnce n (d, m)).2) := by
  induction n generalizing d m a with
  | zero => simp [dmaAdvance, times, hp]
  | succ n ih =>
    have hsub : a - rate - n * rate = a - (n + 1) * rate := by rw [Nat.succ_mul, Nat.sub_sub, Nat.add_comm]
    have hone : Dma.advanceOnce (d, m) =
        if d.moved.curEnd.toNat ≤ d.moved.ptr.toNat then (d.moved.endOfFrame, m.event .a) else (d.moved, m) :=
      if_neg (by simp [hp])
    simp only [times, hone]
    rw [dmaAdvance_succ, ← hsub]
    by_cases he : d.moved.curEnd.toNat ≤ d.moved.ptr.toNat
    · simp only [he, if_true]
      by_cases hq : d.moved.endOfFrame.playing = true
      · simp only [hq, if_true]
        exact ih _ _ _ hq
      · have hq' : d.moved.endOfFrame.playing = false := by simpa using hq
        rw [if_neg hq]
        rw [times_advance_stopped n (x := (d.moved.endOfFrame, m.event .a)) hq']
        simp [hq']
    · simp only [he, if_false]
      exact ih _ _ _ hp


end Sys2Proof.Machine
end

