-- ==== Sys2Proof/Laws/Encoding.lean ====
section
/-! SUPPORT. The fields of an encoded word, and which encoded words are `Reserved` (30_encoding R100, R114). -/

namespace Sys2Proof

open Sys2Proof.Machine

/-! ## Fields of a concatenation -/

/-- A field that ends below the upper part is a field of the lower part. -/
theorem field_below {m n w : Nat} (x : BitVec m) (y : BitVec n) (k : Nat) (h : k + w ≤ n) :
    (x ++ y).extractLsb' k w = y.extractLsb' k w := by
  apply BitVec.eq_of_getLsbD_eq
  intro i hi
  have : k + i < n := by omega
  simp [BitVec.getLsbD_append, hi, this]

/-- A field that starts at or above the lower part is a field of the upper part. -/
theorem field_above {m n w : Nat} (x : BitVec m) (y : BitVec n) (k : Nat) (h : n ≤ k) :
    (x ++ y).extractLsb' k w = x.extractLsb' (k - n) w := by
  apply BitVec.eq_of_getLsbD_eq
  intro i hi
  have : ¬ k + i < n := by omega
  have e : k + i - n = k - n + i := by omega
  simp [BitVec.getLsbD_append, hi, this, e]

/-- The whole of a part. -/
theorem field_whole {w : Nat} (x : BitVec w) : x.extractLsb' 0 w = x := by
  apply BitVec.eq_of_getLsbD_eq
  intro i hi
  simp [hi]

/-! ## Fields of a bus word -/

theorem busWord_cls (cls sz : BitVec 2) (addr : WideAddr) (data : Long) : clsField (busWord cls sz addr data) = cls := by
  unfold clsField busWord
  rw [field_above _ _ _ (by decide), field_above _ _ _ (by decide), field_above _ _ _ (by decide)]
  exact field_whole cls

theorem busWord_sz (cls sz : BitVec 2) (addr : WideAddr) (data : Long) : szField (busWord cls sz addr data) = sz := by
  unfold szField busWord
  rw [field_above _ _ _ (by decide), field_above _ _ _ (by decide), field_below _ _ _ (by decide)]
  exact field_whole sz

theorem busWord_addr (cls sz : BitVec 2) (addr : WideAddr) (data : Long) :
    addrField (busWord cls sz addr data) = addr := by
  unfold addrField busWord
  rw [field_above _ _ _ (by decide), field_below _ _ _ (by decide)]
  exact field_whole addr

theorem busWord_data (cls sz : BitVec 2) (addr : WideAddr) (data : Long) :
    dataField (busWord cls sz addr data) = data := by
  unfold dataField busWord
  rw [field_below _ _ _ (by decide)]
  exact field_whole data

theorem busWord_bit32 (cls sz : BitVec 2) (addr : WideAddr) (data : Long) :
    (busWord cls sz addr data).getLsbD 32 = addr.getLsbD 0 := by
  have h := congrArg (fun x => x.getLsbD 0) (busWord_addr cls sz addr data)
  simpa [addrField] using h

/-! ## Fields of a command or callback word -/

theorem commandWord_cls (cls : BitVec 2) (code : Byte) (arg : Long) : clsField (commandWord cls code arg) = cls := by
  unfold clsField commandWord
  rw [field_above _ _ _ (by decide), field_above _ _ _ (by decide), field_above _ _ _ (by decide),
    field_above _ _ _ (by decide)]
  exact field_whole cls

theorem commandWord_code (cls : BitVec 2) (code : Byte) (arg : Long) :
    codeField (commandWord cls code arg) = code := by
  unfold codeField commandWord
  rw [field_above _ _ _ (by decide), field_above _ _ _ (by decide), field_below _ _ _ (by decide)]
  exact field_whole code

theorem commandWord_arg (cls : BitVec 2) (code : Byte) (arg : Long) : argField (commandWord cls code arg) = arg := by
  unfold argField commandWord
  rw [field_below _ _ _ (by decide)]
  exact field_whole arg

theorem commandWord_reservedHigh (cls : BitVec 2) (code : Byte) (arg : Long) :
    reservedHigh (commandWord cls code arg) = 0 := by
  unfold reservedHigh commandWord
  rw [field_above _ _ _ (by decide), field_above _ _ _ (by decide), field_above _ _ _ (by decide),
    field_below _ _ _ (by decide)]
  exact field_whole 0

theorem commandWord_reservedLow (cls : BitVec 2) (code : Byte) (arg : Long) :
    reservedLow (commandWord cls code arg) = 0 := by
  unfold reservedLow commandWord
  rw [field_above _ _ _ (by decide), field_below _ _ _ (by decide)]
  exact field_whole 0

/-! ## Reserved words (R114) -/

/-- The word of a bus transaction is `Reserved` exactly when it is misaligned. -/
theorem reserved_bus (cls sz : BitVec 2) (addr : WideAddr) (data : Long) (h : cls = 0 ∨ cls = 1) :
    Reserved (busWord cls sz addr data) ↔ sz = 3 ∨ (sz ≠ 0 ∧ addr.getLsbD 0 = true) := by
  have hc : (busWord cls sz addr data).extractLsb' 62 2 = cls := busWord_cls cls sz addr data
  have hs : (busWord cls sz addr data).extractLsb' 60 2 = sz := busWord_sz cls sz addr data
  unfold Reserved ReservedBus
  rw [hc, hs, busWord_bit32]
  rcases h with rfl | rfl <;> exact Iff.rfl

theorem not_reserved_bus {op : BusOp} {addr : WideAddr} (h : op.alignedAt addr = true) :
    ¬ Reserved (encodeBus op addr) := by
  cases op <;> simp only [encodeBus, reserved_bus _ _ _ _ (.inl rfl), reserved_bus _ _ _ _ (.inr rfl)] <;>
    simp_all [BusOp.alignedAt]

/-- A command word with a listed code is not `Reserved`. -/
theorem not_reserved_command {code : Byte} (arg : Long) (h : code.toNat ∈ listedCommands) :
    ¬ Reserved (commandWord 2 code arg) := by
  have h1 : (commandWord 2 code arg).extractLsb' 62 2 = 2 := commandWord_cls 2 code arg
  have h2 : (commandWord 2 code arg).extractLsb' 56 6 = 0 := commandWord_reservedHigh 2 code arg
  have h3 : (commandWord 2 code arg).extractLsb' 32 16 = 0 := commandWord_reservedLow 2 code arg
  have h4 : (commandWord 2 code arg).extractLsb' 48 8 = code := commandWord_code 2 code arg
  unfold Reserved
  rw [h1]
  show ¬ ReservedCode listedCommands _
  unfold ReservedCode
  rw [h2, h3, h4]
  simp [h]

/-- A callback word with a listed code is not `Reserved`. -/
theorem not_reserved_callback {code : Byte} (arg : Long) (h : code.toNat ∈ listedCallbacks) :
    ¬ Reserved (commandWord 3 code arg) := by
  have h1 : (commandWord 3 code arg).extractLsb' 62 2 = 3 := commandWord_cls 3 code arg
  have h2 : (commandWord 3 code arg).extractLsb' 56 6 = 0 := commandWord_reservedHigh 3 code arg
  have h3 : (commandWord 3 code arg).extractLsb' 32 16 = 0 := commandWord_reservedLow 3 code arg
  have h4 : (commandWord 3 code arg).extractLsb' 48 8 = code := commandWord_code 3 code arg
  unfold Reserved
  rw [h1]
  show ¬ ReservedCode listedCallbacks _
  unfold ReservedCode
  rw [h2, h3, h4]
  simp [h]

/-! ## Addresses of the windows -/

/-- An address in a window that starts at an even base is as odd as its offset. -/
theorem windowAddr_bit0 {base off : Nat} (hb : base % 2 = 0) : (windowAddr base off).getLsbD 0 = (off % 2 == 1) := by
  unfold windowAddr
  rw [BitVec.getLsbD_ofNat, Nat.testBit_zero]
  have : (base + off) % 2 = off % 2 := by omega
  simp [this, beq_eq_decide]

theorem odd_toNat {w : Nat} (x : BitVec w) : (x.toNat % 2 == 1) = x.getLsbD 0 := by
  rw [← BitVec.testBit_toNat, Nat.testBit_zero]
  simp [beq_eq_decide]

theorem psgAddr_bit0 (off : BitVec 8) : (psgAddr off).getLsbD 0 = off.getLsbD 0 :=
  (windowAddr_bit0 (by decide)).trans (odd_toNat off)

theorem dmaAddr_bit0 (off : BitVec 6) : (dmaAddr off).getLsbD 0 = off.getLsbD 0 :=
  (windowAddr_bit0 (by decide)).trans (odd_toNat off)

theorem mfpAddr_bit0 (off : BitVec 6) : (mfpAddr off).getLsbD 0 = off.getLsbD 0 :=
  (windowAddr_bit0 (by decide)).trans (odd_toNat off)

theorem setWidth_bit0 {w : Nat} (x : BitVec w) : (x.setWidth 28 : WideAddr).getLsbD 0 = x.getLsbD 0 := by
  simp

/-! ## The word of each kind of transaction is performed -/

/-- A byte transaction stands at any address. -/
theorem not_reserved_readByte (addr : WideAddr) : ¬ Reserved (encodeBus .readByte addr) := not_reserved_bus rfl

theorem not_reserved_writeByte (v : Byte) (addr : WideAddr) : ¬ Reserved (encodeBus (.writeByte v) addr) :=
  not_reserved_bus rfl

/-- A word transaction stands at an even address. -/
theorem not_reserved_readWord {addr : WideAddr} (h : addr.getLsbD 0 = false) : ¬ Reserved (encodeBus .readWord addr) :=
  not_reserved_bus (by simp only [BusOp.alignedAt, h]; rfl)

theorem not_reserved_writeWord (v : Half) {addr : WideAddr} (h : addr.getLsbD 0 = false) :
    ¬ Reserved (encodeBus (.writeWord v) addr) :=
  not_reserved_bus (by simp only [BusOp.alignedAt, h]; rfl)

theorem not_reserved_readLong {addr : WideAddr} (h : addr.getLsbD 0 = false) : ¬ Reserved (encodeBus .readLong addr) :=
  not_reserved_bus (by simp only [BusOp.alignedAt, h]; rfl)

theorem not_reserved_writeLong (v : Long) {addr : WideAddr} (h : addr.getLsbD 0 = false) :
    ¬ Reserved (encodeBus (.writeLong v) addr) :=
  not_reserved_bus (by simp only [BusOp.alignedAt, h]; rfl)

end Sys2Proof
end

