-- ==== Sys2Proof/Laws/PerInstr.lean ====
section
/-! SUPPORT. Per instruction: the word of a well-formed instruction is not `Reserved` (30_encoding R114). -/

namespace Sys2Proof.Laws.Encodable

open Sys2Proof

/-- The statement, of one instruction. -/
def Statement (i : Instr) : Prop := i.wf = true → ¬ Reserved (encode i)

theorem not_true {b : Bool} (h : (!b) = true) : b = false := by simpa using h

theorem addrviolA24 (op : BusOp) (addr : WideAddr) : Statement (.addrviolA24 op addr) :=
  fun h => not_reserved_bus (Bool.and_eq_true_iff.mp h).1

theorem addrviolA25 (op : BusOp) (addr : WideAddr) : Statement (.addrviolA25 op addr) :=
  fun h => not_reserved_bus (Bool.and_eq_true_iff.mp h).1

theorem addrviolA26 (op : BusOp) (addr : WideAddr) : Statement (.addrviolA26 op addr) :=
  fun h => not_reserved_bus (Bool.and_eq_true_iff.mp h).1

theorem addrviolA27 (op : BusOp) (addr : WideAddr) : Statement (.addrviolA27 op addr) :=
  fun h => not_reserved_bus (Bool.and_eq_true_iff.mp h).1

theorem busRdL (addr : Addr) : Statement (.busRdL addr) :=
  fun h => not_reserved_readLong ((setWidth_bit0 addr).trans (not_true h))

theorem busWrL (addr : Addr) (data : Long) : Statement (.busWrL addr data) :=
  fun h => not_reserved_writeLong data ((setWidth_bit0 addr).trans (not_true h))

theorem ramRdB (addr : BitVec 22) : Statement (.ramRdB addr) :=
  fun _ => not_reserved_readByte _

theorem ramRdW (addr : BitVec 22) : Statement (.ramRdW addr) :=
  fun h => not_reserved_readWord ((setWidth_bit0 addr).trans (not_true h))

theorem ramWrB (addr : BitVec 22) (data : Byte) : Statement (.ramWrB addr data) :=
  fun _ => not_reserved_writeByte _ _

theorem ramWrW (addr : BitVec 22) (data : Half) : Statement (.ramWrW addr data) :=
  fun h => not_reserved_writeWord data ((setWidth_bit0 addr).trans (not_true h))

theorem psgSelectB (off : Byte) (b : Byte) : Statement (.psgSelectB off b) :=
  fun _ => not_reserved_writeByte _ _

theorem psgSelectW (off : Byte) (b : Byte) : Statement (.psgSelectW off b) :=
  fun h => not_reserved_writeWord _ ((psgAddr_bit0 off).trans (not_true (Bool.and_eq_true_iff.mp h).2))

theorem psgDataB (off : Byte) (b : Byte) : Statement (.psgDataB off b) :=
  fun _ => not_reserved_writeByte _ _

theorem psgDataW (off : Byte) (b : Byte) : Statement (.psgDataW off b) :=
  fun h => not_reserved_writeWord _ ((psgAddr_bit0 off).trans (not_true (Bool.and_eq_true_iff.mp h).2))

theorem psgReadB (off : Byte) : Statement (.psgReadB off) :=
  fun _ => not_reserved_readByte _

theorem psgReadW (off : Byte) : Statement (.psgReadW off) :=
  fun h => not_reserved_readWord ((psgAddr_bit0 off).trans (not_true h))

theorem dmaWrCtrl (b : Byte) : Statement (.dmaWrCtrl b) :=
  fun _ => not_reserved_writeByte _ _

theorem dmaWrStartH (b : Byte) : Statement (.dmaWrStartH b) :=
  fun _ => not_reserved_writeByte _ _

theorem dmaWrStartM (b : Byte) : Statement (.dmaWrStartM b) :=
  fun _ => not_reserved_writeByte _ _

theorem dmaWrStartL (b : Byte) : Statement (.dmaWrStartL b) :=
  fun _ => not_reserved_writeByte _ _

theorem dmaWrEndH (b : Byte) : Statement (.dmaWrEndH b) :=
  fun _ => not_reserved_writeByte _ _

theorem dmaWrEndM (b : Byte) : Statement (.dmaWrEndM b) :=
  fun _ => not_reserved_writeByte _ _

theorem dmaWrEndL (b : Byte) : Statement (.dmaWrEndL b) :=
  fun _ => not_reserved_writeByte _ _

theorem dmaWrMode (b : Byte) : Statement (.dmaWrMode b) :=
  fun _ => not_reserved_writeByte _ _

theorem dmaWrMwdataB (low : Bool) (b : Byte) : Statement (.dmaWrMwdataB low b) :=
  fun _ => not_reserved_writeByte _ _

theorem dmaWrMwmaskB (low : Bool) (b : Byte) : Statement (.dmaWrMwmaskB low b) :=
  fun _ => not_reserved_writeByte _ _

theorem dmaWrDropB (off : BitVec 6) (b : Byte) : Statement (.dmaWrDropB off b) :=
  fun _ => not_reserved_writeByte _ _

theorem dmaWrMwdataW (w : Half) : Statement (.dmaWrMwdataW w) :=
  fun _ => not_reserved_writeWord _ (dmaAddr_bit0 _)

theorem dmaWrMwmaskW (w : Half) : Statement (.dmaWrMwmaskW w) :=
  fun _ => not_reserved_writeWord _ (dmaAddr_bit0 _)

theorem dmaWrW (off : BitVec 6) (w : Half) : Statement (.dmaWrW off w) :=
  fun h => not_reserved_writeWord _ ((dmaAddr_bit0 off).trans
    (not_true (Bool.and_eq_true_iff.mp (Bool.and_eq_true_iff.mp h).1).1))

theorem dmaRdB (off : BitVec 6) : Statement (.dmaRdB off) :=
  fun _ => not_reserved_readByte _

theorem dmaRdW (off : BitVec 6) : Statement (.dmaRdW off) :=
  fun h => not_reserved_readWord ((dmaAddr_bit0 off).trans (not_true h))

theorem mfpWrGpip (b : Byte) : Statement (.mfpWrGpip b) :=
  fun _ => not_reserved_writeByte _ _

theorem mfpWrAer (b : Byte) : Statement (.mfpWrAer b) :=
  fun _ => not_reserved_writeByte _ _

theorem mfpWrDdr (b : Byte) : Statement (.mfpWrDdr b) :=
  fun _ => not_reserved_writeByte _ _

theorem mfpWrIera (b : Byte) : Statement (.mfpWrIera b) :=
  fun _ => not_reserved_writeByte _ _

theorem mfpWrIerb (b : Byte) : Statement (.mfpWrIerb b) :=
  fun _ => not_reserved_writeByte _ _

theorem mfpWrIpra (b : Byte) : Statement (.mfpWrIpra b) :=
  fun _ => not_reserved_writeByte _ _

theorem mfpWrIprb (b : Byte) : Statement (.mfpWrIprb b) :=
  fun _ => not_reserved_writeByte _ _

theorem mfpWrIsra (b : Byte) : Statement (.mfpWrIsra b) :=
  fun _ => not_reserved_writeByte _ _

theorem mfpWrIsrb (b : Byte) : Statement (.mfpWrIsrb b) :=
  fun _ => not_reserved_writeByte _ _

theorem mfpWrImra (b : Byte) : Statement (.mfpWrImra b) :=
  fun _ => not_reserved_writeByte _ _

theorem mfpWrImrb (b : Byte) : Statement (.mfpWrImrb b) :=
  fun _ => not_reserved_writeByte _ _

theorem mfpWrVr (b : Byte) : Statement (.mfpWrVr b) :=
  fun _ => not_reserved_writeByte _ _

theorem mfpWrTacr (b : Byte) : Statement (.mfpWrTacr b) :=
  fun _ => not_reserved_writeByte _ _

theorem mfpWrTbcr (b : Byte) : Statement (.mfpWrTbcr b) :=
  fun _ => not_reserved_writeByte _ _

theorem mfpWrTcdcr (b : Byte) : Statement (.mfpWrTcdcr b) :=
  fun _ => not_reserved_writeByte _ _

theorem mfpWrTadr (b : Byte) : Statement (.mfpWrTadr b) :=
  fun _ => not_reserved_writeByte _ _

theorem mfpWrTbdr (b : Byte) : Statement (.mfpWrTbdr b) :=
  fun _ => not_reserved_writeByte _ _

theorem mfpWrTcdr (b : Byte) : Statement (.mfpWrTcdr b) :=
  fun _ => not_reserved_writeByte _ _

theorem mfpWrTddr (b : Byte) : Statement (.mfpWrTddr b) :=
  fun _ => not_reserved_writeByte _ _

theorem mfpWrScr (b : Byte) : Statement (.mfpWrScr b) :=
  fun _ => not_reserved_writeByte _ _

theorem mfpWrUcr (b : Byte) : Statement (.mfpWrUcr b) :=
  fun _ => not_reserved_writeByte _ _

theorem mfpWrRsr (b : Byte) : Statement (.mfpWrRsr b) :=
  fun _ => not_reserved_writeByte _ _

theorem mfpWrTsr (b : Byte) : Statement (.mfpWrTsr b) :=
  fun _ => not_reserved_writeByte _ _

theorem mfpWrUdr (b : Byte) : Statement (.mfpWrUdr b) :=
  fun _ => not_reserved_writeByte _ _

theorem mfpWrDropB (off : BitVec 6) (b : Byte) : Statement (.mfpWrDropB off b) :=
  fun _ => not_reserved_writeByte _ _

theorem mfpWrW (off : BitVec 6) (w : Half) : Statement (.mfpWrW off w) :=
  fun h => not_reserved_writeWord _ ((mfpAddr_bit0 off).trans (not_true h))

theorem mfpRdB (off : BitVec 6) : Statement (.mfpRdB off) :=
  fun _ => not_reserved_readByte _

theorem mfpRdW (off : BitVec 6) : Statement (.mfpRdW off) :=
  fun h => not_reserved_readWord ((mfpAddr_bit0 off).trans (not_true h))

theorem unmappedRd (size : Width) (addr : Addr) : Statement (.unmappedRd size addr) :=
  fun h => by
  cases size
  · exact not_reserved_readByte _
  · exact not_reserved_readWord ((setWidth_bit0 addr).trans (not_true (Bool.and_eq_true_iff.mp h).2))

theorem unmappedWr (data : WriteData) (addr : Addr) : Statement (.unmappedWr data addr) :=
  fun h => by
  cases data
  · exact not_reserved_writeByte _ _
  · exact not_reserved_writeWord _ ((setWidth_bit0 addr).trans (not_true (Bool.and_eq_true_iff.mp h).2))

theorem cmdStartup (hostRate : Long) : Statement (.cmdStartup hostRate) :=
  fun _ => not_reserved_command _ (by decide)

theorem cmdLoad (defaultDurationSeconds : Long) : Statement (.cmdLoad defaultDurationSeconds) :=
  fun _ => not_reserved_command _ (by decide)

theorem cmdGetSubsongInfo (id : Long) : Statement (.cmdGetSubsongInfo id) :=
  fun _ => not_reserved_command _ (by decide)

theorem cmdInitSubSong (id : Long) : Statement (.cmdInitSubSong id) :=
  fun _ => not_reserved_command _ (by decide)

theorem cmdAudioRender (n : Long) : Statement (.cmdAudioRender n) :=
  fun _ => not_reserved_command _ (by decide)

theorem cmdRunUntilReturn : Statement .cmdRunUntilReturn :=
  fun _ => not_reserved_command _ (by decide)

theorem cmdComputeNextSample : Statement .cmdComputeNextSample :=
  fun _ => not_reserved_command _ (by decide)

theorem cmdPsgWriteRegister (index : Byte) (value : Byte) : Statement (.cmdPsgWriteRegister index value) :=
  fun _ => not_reserved_command _ (by decide)

theorem cmdPsgTick : Statement .cmdPsgTick :=
  fun _ => not_reserved_command _ (by decide)

theorem cmdPsgComputeNextSample : Statement .cmdPsgComputeNextSample :=
  fun _ => not_reserved_command _ (by decide)

theorem cmdPsgInsideTimerIrq (flag : Bool) : Statement (.cmdPsgInsideTimerIrq flag) :=
  fun _ => not_reserved_command _ (by decide)

theorem cmdPsgReset : Statement .cmdPsgReset :=
  fun _ => not_reserved_command _ (by decide)

theorem cmdTimerTick (t : Timer) : Statement (.cmdTimerTick t) :=
  fun _ => not_reserved_command _ (by decide)

theorem cmdTimerReset : Statement .cmdTimerReset :=
  fun _ => not_reserved_command _ (by decide)

theorem cmdTimerAcknowledge (t : Timer) : Statement (.cmdTimerAcknowledge t) :=
  fun _ => not_reserved_command _ (by decide)

theorem cmdTimerEvent (t : Timer) : Statement (.cmdTimerEvent t) :=
  fun _ => not_reserved_command _ (by decide)

theorem cmdDmaComputeNextSample : Statement .cmdDmaComputeNextSample :=
  fun _ => not_reserved_command _ (by decide)

theorem cmdDmaReset : Statement .cmdDmaReset :=
  fun _ => not_reserved_command _ (by decide)

theorem cbReset (pc : Addr) : Statement (.cbReset pc) :=
  fun _ => not_reserved_callback _ (by decide)

theorem cbIllegal (opcode : Half) : Statement (.cbIllegal opcode) :=
  fun _ => not_reserved_callback _ (by decide)

theorem cbGemdos (fn : Half) : Statement (.cbGemdos fn) :=
  fun _ => not_reserved_callback _ (by decide)

end Sys2Proof.Laws.Encodable
end

