-- ==== Sys2Proof/Laws/Run.lean ====
section
/-! SUPPORT. What entering a bounded execution leaves in RAM (45 R340), what the end of a slice does
(45 R342), and the values of the configuration's constants. -/

namespace Sys2Proof.Machine

open Sys2Proof

/-! ## Constants -/

theorem fInt_eq : Config.fInt = 250000 := rfl
theorem frameCycles_eq : Config.frameCycles = 160000 := rfl
theorem mfpClock_eq : Config.mfpClock = 2457600 := rfl
theorem ramSize_eq : Config.ramSize = 4194304 := rfl

theorem frameBase_eq (p : Path) : frameBase p = match p with
    | .rts => 0xFFFC
    | .rte => 0xFFFA := by
  cases p <;> rfl

theorem vectorAddr_eq (t : Timer) : vectorAddr t = vectorTable t := by cases t <;> rfl

theorem hostRateOk_iff (r : Nat) : Config.hostRateOk r = true ↔ 1 ≤ r ∧ r ≤ 250000 := by
  simp [Config.hostRateOk, fInt_eq]

/-! ## Commands -/

/-- A command on a ready machine is performed. -/
theorem State.command_ready {s : State} (h : s.ready) (f : State → State) : s.command f = .next (f s) :=
  State.command_idle h.1 h.2 f

/-- A command on an unstarted or busy machine is refused. -/
theorem State.command_refused {s : State} (h : s.busy = true ∨ s.started = false) (f : State → State) :
    s.command f = .next s.refuse := by
  rcases h with h | h <;> simp [State.command, h]

/-! ## Reads of two memories that agree -/

theorem Memory.read16_congr {m m' : Memory} {a : Nat} (h : ∀ k, a ≤ k → k < a + 2 → m.read k = m'.read k) :
    m.read16 a = m'.read16 a := by
  simp only [Memory.read16]
  rw [h a (by omega) (by omega), h (a + 1) (by omega) (by omega)]

theorem Memory.read32_congr {m m' : Memory} {a : Nat} (h : ∀ k, a ≤ k → k < a + 4 → m.read k = m'.read k) :
    m.read32 a = m'.read32 a := by
  simp only [Memory.read32]
  rw [Memory.read16_congr fun k h1 h2 => h k h1 (by omega),
    Memory.read16_congr fun k h1 h2 => h k (by omega) (by omega)]

/-! ## The frame and the vector (45 R340) -/

theorem Memory.wf_pushFrame {m : Memory} (h : m.wf = true) (p : Path) : (m.pushFrame p).wf = true := by
  cases p
  · exact Memory.wf_write32 _ h (by decide)
  · exact Memory.wf_write32 _ (Memory.wf_write16 _ h (by decide)) (by decide)

/-- The vector is in the first eight bytes. -/
theorem Memory.read_setVector (m : Memory) (sp : Nat) (e : Addr) {a : Nat} (h : 8 ≤ a) :
    (m.setVector sp e).read a = m.read a := by
  unfold Memory.setVector
  rw [Memory.read_write32_other _ _ (by omega), Memory.read_write32_other _ _ (by omega)]

/-- The stack pointer and the entry stand where `pulseReset` reads them. -/
theorem Memory.vector_reads {m : Memory} (h : m.wf = true) (sp : Nat) (e : Addr) :
    (m.setVector sp e).read32 0 = BitVec.ofNat 32 sp ∧ (m.setVector sp e).read32 4 = e.setWidth 32 := by
  constructor
  · unfold Memory.setVector
    rw [Memory.read32_congr (m' := m.write32 0 (BitVec.ofNat 32 sp))]
    · exact Memory.read32_write32_same h (by decide) _
    · intro k h1 h2; exact Memory.read_write32_other _ _ (by omega)
  · exact Memory.read32_write32_same (Memory.wf_write32 _ h (by decide)) (by decide) _

/-- The frame of the RTS path. -/
theorem Memory.frame_rts {m : Memory} (h : m.wf = true) : (m.pushFrame .rts).read32 0xFFFC = 0x500 :=
  Memory.read32_write32_same h (by decide) _

/-- The frame of the RTE path. -/
theorem Memory.frame_rte {m : Memory} (h : m.wf = true) :
    (m.pushFrame .rte).read16 0xFFFA = 0x2700 ∧ (m.pushFrame .rte).read32 0xFFFC = 0x502 := by
  constructor
  · rw [Memory.read16_congr (m' := m.write16 0xFFFA 0x2700)]
    · exact Memory.read16_write16_same h (by decide) _
    · intro k h1 h2; exact Memory.read_write32_other _ (a := 0xFFFC) _ (by omega)
  · exact Memory.read32_write32_same (Memory.wf_write16 _ h (by decide)) (by decide) _

/-- The frame touches only the bytes between the stack pointer and the top of the stack. -/
theorem Memory.read_pushFrame_other (m : Memory) (p : Path) {a : Nat} (h : a < frameBase p ∨ 0x10000 ≤ a) :
    (m.pushFrame p).read a = m.read a := by
  cases p
  · have h' : a < 0xFFFC ∨ 0x10000 ≤ a := h
    exact Memory.read_write32_other _ (a := 0xFFFC) _ (by omega)
  · have h' : a < 0xFFFA ∨ 0x10000 ≤ a := h
    exact (Memory.read_write32_other _ (a := 0xFFFC) _ (by omega)).trans
      (Memory.read_write16_other _ (a := 0xFFFA) _ (by omega) (by omega))

/-- RAM after Startup: the sentinels and the cookies, and zero elsewhere (45 R331 to R333). -/
theorem State.startup_mem (s : State) (rate : Nat) : (s.startup rate).mem = Memory.atReset := by
  show Memory.installCookies (Memory.installSentinels []) = _
  decide

/-! ## Reads through the bus, and Malloc (45 R350, R351) -/

theorem State.memRead16_ram (s : State) {x : Nat} (hx : x + 2 ≤ 0x400000) :
    s.memRead16 (BitVec.ofNat 24 x) = s.mem.read16 x := by
  have h24 : (BitVec.ofNat 24 x).toNat = x := by rw [BitVec.toNat_ofNat]; omega
  have hr : regionOf (BitVec.ofNat 24 x) = .ram (BitVec.ofNat 22 x) := by
    unfold regionOf
    rw [h24, if_pos (show x < 0x400000 by omega)]
    refine congrArg Region.ram (BitVec.eq_of_toNat_eq ?_)
    rw [BitVec.extractLsb'_toNat, h24, BitVec.toNat_ofNat, Nat.shiftRight_zero]
  unfold State.memRead16
  rw [hr]
  show s.mem.read16 (BitVec.ofNat 22 x).toNat = _
  rw [show (BitVec.ofNat 22 x).toNat = x by rw [BitVec.toNat_ofNat]; omega]

theorem State.memRead32_ram (s : State) {x : Nat} (hx : x + 4 ≤ 0x400000) :
    s.memRead32 (BitVec.ofNat 24 x) = s.mem.read32 x := by
  unfold State.memRead32 Memory.read32
  rw [show BitVec.ofNat 24 x + 2 = BitVec.ofNat 24 (x + 2) by rw [BitVec.ofNat_add]; rfl,
    State.memRead16_ram s (by omega), State.memRead16_ram s (by omega)]

/-- What Malloc does, in natural numbers. -/
theorem State.malloc_eq {s : State} (h : s.bump.toNat ≤ 0x400000) (size : Long) : s.malloc size =
    if size = 0xFFFFFFFF then
      { s with cpu := { s.cpu with d0 := some (BitVec.ofNat 32 (0x400000 - s.bump.toNat)) } }
    else if s.bump.toNat + (size.toNat + 3) / 4 * 4 ≤ 0x400000 then
      { s with
        bump := BitVec.ofNat 24 (s.bump.toNat + (size.toNat + 3) / 4 * 4)
        cpu := { s.cpu with d0 := some (BitVec.ofNat 32 s.bump.toNat) } }
    else s.raise .allocOverflow size := by
  unfold State.malloc
  split
  · rw [show BitVec.ofNat 32 Config.ramSize - s.bump.setWidth 32 = BitVec.ofNat 32 (0x400000 - s.bump.toNat) by
      apply BitVec.eq_of_toNat_eq
      rw [BitVec.toNat_sub, BitVec.toNat_ofNat, BitVec.toNat_setWidth, ramSize_eq, BitVec.toNat_ofNat]
      omega]
    rfl
  · rw [show roundedSize size = (size.toNat + 3) / 4 * 4 from rfl, ramSize_eq]
    generalize (size.toNat + 3) / 4 * 4 = n
    by_cases h : s.bump.toNat + n ≤ 4194304
    · rw [if_neg (Nat.not_lt.2 h), if_pos h, show s.bump + BitVec.ofNat 24 n = BitVec.ofNat 24 (s.bump.toNat + n) by
        rw [BitVec.ofNat_add, BitVec.ofNat_toNat, BitVec.setWidth_eq],
        show s.bump.setWidth 32 = BitVec.ofNat 32 s.bump.toNat from (BitVec.ofNat_toNat _ _).symm]
      rfl
    · rw [if_pos (Nat.not_le.1 h), if_neg h]

/-! ## The end of a slice (45 R342) -/

/-- What the return of the CPU agent does, by what stands in the state. -/
theorem State.agentReturn_cases (s : State) (c : Nat) :
    (s.busy = false ∧ s.agentReturn c = .refused .agentOutsideRun) ∨
      (s.busy = true ∧ s.exit = .none ∧ c < 160000 ∧ s.agentReturn c = .fault .agentContract) ∨
      (s.busy = true ∧ s.exit = .none ∧ 160000 ≤ c ∧ 1 < s.run.framesLeft ∧
        s.agentReturn c = .next { s with run := { s.run with framesLeft := s.run.framesLeft - 1 } }) ∨
      (s.busy = true ∧ (s.exit ≠ .none ∨ (160000 ≤ c ∧ s.run.framesLeft ≤ 1)) ∧
        s.agentReturn c = .next (State.resume s.run.caller (s.exit = .sentinel) s.leaveRun)) := by
  unfold State.agentReturn
  rw [frameCycles_eq]
  cases hb : s.busy with
  | false => exact .inl ⟨rfl, rfl⟩
  | true =>
    by_cases h1 : s.exit = .none ∧ c < 160000
    · exact .inr (.inl ⟨rfl, h1.1, h1.2, by simp [h1]⟩)
    · by_cases h2 : s.exit = .none ∧ 1 < s.run.framesLeft
      · have hc : 160000 ≤ c := by
          rcases Nat.lt_or_ge c 160000 with h | h
          · exact absurd ⟨h2.1, h⟩ h1
          · exact h
        refine .inr (.inr (.inl ⟨rfl, h2.1, hc, h2.2, ?_⟩))
        rw [if_neg (by simp), if_neg h1, if_pos h2]
      · refine .inr (.inr (.inr ⟨rfl, ?_, ?_⟩))
        · by_cases h : s.exit = .none
          · exact .inr ⟨by rcases Nat.lt_or_ge c 160000 with h' | h'; exact absurd ⟨h, h'⟩ h1; exact h',
              by rcases Nat.lt_or_ge 1 s.run.framesLeft with h' | h'; exact absurd ⟨h, h'⟩ h2; exact h'⟩
          · exact .inl h
        · rw [if_neg (by simp), if_neg h1, if_neg h2]

end Sys2Proof.Machine
end

