-- ==== Sys2Proof/Laws/Render.lean ====
section
/-! SUPPORT. What one sample does (45 R360): the timers in their order, the dispatch of the first to signal,
and the loop of a render (45 R374) as far as it needs no CPU. -/

namespace Sys2Proof.Machine

open Sys2Proof

/-! ## The end of a run -/

theorem State.leaveRun_eq (s : State) : s.leaveRun = s.runEnded := by
  unfold State.leaveRun State.runEnded
  cases s.exit <;> rfl

theorem State.failure_eq (s : State) : s.failure = s.failResult := rfl

/-- A return that ends the run hands the run's outcome to its caller. -/
theorem State.agentReturn_ends {s : State} {c : Nat} (hb : s.busy = true) (h : s.runEnds c) :
    s.agentReturn c = .next (State.resume s.run.caller (s.exit = .sentinel) s.runEnded) := by
  rw [← State.leaveRun_eq]
  unfold State.runEnds at h
  rcases s.agentReturn_cases c with ⟨h1, -⟩ | ⟨-, h1, h2, -⟩ | ⟨-, h1, -, h2, -⟩ | ⟨-, -, e⟩
  · rw [h1] at hb; cases hb
  · rcases h with h | h
    · exact absurd h1 h
    · omega
  · rcases h with h | h
    · exact absurd h1 h
    · omega
  · exact e

@[simp] theorem State.runEnded_busy (s : State) : s.runEnded.busy = false := by unfold State.runEnded; split <;> rfl
@[simp] theorem State.runEnded_hostRate (s : State) : s.runEnded.hostRate = s.hostRate := by
  unfold State.runEnded; split <;> rfl
@[simp] theorem State.runEnded_psg (s : State) : s.runEnded.psg = s.psg := by unfold State.runEnded; split <;> rfl
@[simp] theorem State.runEnded_mfp (s : State) : s.runEnded.mfp = s.mfp := by unfold State.runEnded; split <;> rfl
@[simp] theorem State.runEnded_mem (s : State) : s.runEnded.mem = s.mem := by unfold State.runEnded; split <;> rfl
@[simp] theorem State.runEnded_seq (s : State) : s.runEnded.seq = s.seq := by unfold State.runEnded; split <;> rfl
@[simp] theorem State.runEnded_oob (s : State) : s.runEnded.oob = s.oob := by unfold State.runEnded; split <;> rfl
@[simp] theorem State.runEnded_irqFailed (s : State) : s.runEnded.irqFailed = s.irqFailed := by
  unfold State.runEnded; split <;> rfl

/-! ## The interrupt masks stay -/

/-- The mask registers of two timer units agree. -/
def Mfp.SameMasks (m m' : Mfp) : Prop := m'.imra = m.imra ∧ m'.imrb = m.imrb

theorem Mfp.SameMasks.trans {m m' m'' : Mfp} (h : m.SameMasks m') (h' : m'.SameMasks m'') : m.SameMasks m'' :=
  ⟨h'.1.trans h.1, h'.2.trans h.2⟩

theorem Mfp.decrement_masks (m : Mfp) (t : Timer) : m.SameMasks (m.decrement t) := by
  unfold Mfp.decrement Mfp.timeout
  split_ifs <;> exact ⟨rfl, rfl⟩

theorem Mfp.event_masks (m : Mfp) (t : Timer) : m.SameMasks (m.event t) := by
  unfold Mfp.event
  split_ifs
  · exact m.decrement_masks .a
  · exact ⟨rfl, rfl⟩

theorem Mfp.times_masks (n : Nat) (m : Mfp) (t : Timer) : m.SameMasks (times (fun m => m.decrement t) n m) := by
  induction n generalizing m with
  | zero => exact ⟨rfl, rfl⟩
  | succ n ih => exact (m.decrement_masks t).trans (ih _)

/-- A new prescale phase leaves the masks; the phase is a variable so that nothing evaluates it. -/
theorem Mfp.withTacc_masks {m m' : Mfp} (h : m.SameMasks m') (x : PerTimer Nat) : m.SameMasks { m' with tacc := x } := h

theorem Mfp.tick_masks (rate : Nat) (m : Mfp) (t : Timer) : m.SameMasks (m.tick rate t) := by
  unfold Mfp.tick
  split_ifs
  · exact ⟨rfl, rfl⟩
  · exact Mfp.withTacc_masks (m.times_masks (m.countdownTurns rate t) t) _

theorem dmaAdvance_masks (rate n : Nat) (d : Dma) (m : Mfp) : m.SameMasks (dmaAdvance rate n d m).2 := by
  induction n generalizing d m with
  | zero => exact ⟨rfl, rfl⟩
  | succ n ih =>
    unfold dmaAdvance
    dsimp only
    split_ifs
    · exact (m.event_masks .a).trans (ih _ _)
    · exact m.event_masks .a
    · exact ih _ _

theorem dmaSample_masks (rate : Nat) (mem : Memory) (d : Dma) (m : Mfp) : m.SameMasks (dmaSample rate mem d m).1.2 := by
  unfold dmaSample
  split_ifs
  · exact dmaAdvance_masks _ _ _ _
  · exact ⟨rfl, rfl⟩

theorem Mfp.foldl_masks (rate : Nat) (l : List Timer) (m : Mfp) :
    m.SameMasks (l.foldl (fun m t => m.tick rate t) m) := by
  induction l generalizing m with
  | nil => exact ⟨rfl, rfl⟩
  | cons t l ih => exact (m.tick_masks rate t).trans (ih _)

/-- With every interrupt masked no timer signals. -/
theorem State.quiet_of_masked {s : State} (ha : s.mfp.imra = 0) (hb : s.mfp.imrb = 0) (l : List Timer) : s.quiet l := by
  intro pre post t _ h
  obtain ⟨h1, h2⟩ := Mfp.foldl_masks s.hostRate (pre ++ [t]) s.mfp
  have h3 := h.2.1
  simp only [State.ticked, Mfp.imr, h1, h2, ha, hb] at h3
  cases t <;> cases h3

/-! ## The timers of a sample -/

theorem Mfp.gate_iff (g : Bool) (m : Mfp) (t : Timer) :
    m.gate g t = true ↔ (g = true → m.isr.toNat / 2 ^ channel t = 0) := by
  cases g
  · simp [Mfp.gate]
  · simp [Mfp.gate, ← BitVec.toNat_inj, Nat.shiftRight_eq_div_pow]

theorem State.signals_iff (s : State) (t : Timer) : s.signals t = true ↔ s.fires t := by
  simp only [State.signals, Mfp.signal, State.fires, Bool.and_eq_true, Mfp.gate_iff, and_assoc]

theorem State.tickTimer_eq (s : State) (t : Timer) : s.tickTimer t = s.ticked [t] := rfl

theorem State.ticked_nil (s : State) : s.ticked [] = s := rfl

theorem State.ticked_append (s : State) (l l' : List Timer) : (s.ticked l).ticked l' = s.ticked (l ++ l') := by
  simp [State.ticked]

theorem State.quiet_nil (s : State) : s.quiet [] := fun pre _ _ e => by cases pre <;> simp at e

/-- The timers are quiet if the first does not signal and the rest, ticked after it, are. -/
theorem State.quiet_cons_iff {s : State} {t : Timer} {l : List Timer} :
    s.quiet (t :: l) ↔ ¬ (s.ticked [t]).fires t ∧ (s.ticked [t]).quiet l := by
  refine ⟨fun h => ⟨h [] l t rfl, fun pre post u e => ?_⟩, fun h pre post u e => ?_⟩
  · have := h (t :: pre) post u (by rw [e]; rfl)
    rwa [State.ticked_append]
  · cases pre with
    | nil =>
      obtain ⟨rfl, rfl⟩ := List.cons.inj e
      exact h.1
    | cons v pre =>
      obtain ⟨rfl, e'⟩ := List.cons.inj e
      have := h.2 pre post u e'
      rwa [State.ticked_append] at this

/-- After a session fault no timer is ticked. -/
theorem State.timerLoop_fault {s : State} (hf : s.sessionFault = true) (x : Int) (r : Option Render) (l : List Timer) :
    State.timerLoop x r l s = s := by
  cases l with
  | nil => rfl
  | cons t l => unfold State.timerLoop; rw [if_pos hf]

/-- Timers that do not signal are ticked and no more. -/
theorem State.timerLoop_quiet {s : State} (hf : s.sessionFault = false) (x : Int) (r : Option Render) {l : List Timer}
    (h : s.quiet l) : State.timerLoop x r l s = s.ticked l := by
  induction l generalizing s with
  | nil => rfl
  | cons t l ih =>
    obtain ⟨h1, h2⟩ := State.quiet_cons_iff.1 h
    unfold State.timerLoop
    rw [if_neg (by simp [hf]), if_neg (by rwa [State.signals_iff]), State.tickTimer_eq,
      ih (s := s.ticked [t]) hf h2, State.ticked_append]
    rfl

/-- The first timer to signal is dispatched, the timers after it still to be ticked. -/
theorem State.timerLoop_fires {s : State} (hf : s.sessionFault = false) (x : Int) (r : Option Render)
    {pre post : List Timer} {t : Timer} (h : s.quiet pre) (ht : (s.ticked (pre ++ [t])).fires t) :
    State.timerLoop x r (pre ++ t :: post) s = (s.ticked (pre ++ [t])).dispatch t (.irq post x r) := by
  induction pre generalizing s with
  | nil =>
    show State.timerLoop x r (t :: post) s = _
    unfold State.timerLoop
    rw [if_neg (by simp [hf]), State.tickTimer_eq, if_pos (show _ from (State.signals_iff (s.ticked [t]) t).2 ht)]
    rfl
  | cons u pre ih =>
    obtain ⟨h1, h2⟩ := State.quiet_cons_iff.1 h
    rw [List.cons_append, List.cons_append] at *
    unfold State.timerLoop
    rw [if_neg (by simp [hf]), if_neg (by rwa [State.signals_iff]), State.tickTimer_eq,
      ih (s := s.ticked [u]) hf h2 (by rwa [State.ticked_append]), State.ticked_append]
    rfl

@[simp] theorem State.ticked_busy (s : State) (l : List Timer) : (s.ticked l).busy = s.busy := rfl
@[simp] theorem State.dispatch_busy (s : State) (t : Timer) (c : Caller) : (s.dispatch t c).busy = true := rfl

/-! ## One sample -/

@[simp] theorem State.mixSample_sessionFault (s : State) : s.mixSample.1.sessionFault = s.sessionFault := rfl
@[simp] theorem State.mixSample_irqFailed (s : State) : s.mixSample.1.irqFailed = s.irqFailed := rfl
@[simp] theorem State.mixSample_hostRate (s : State) : s.mixSample.1.hostRate = s.hostRate := rfl
@[simp] theorem State.mixSample_busy (s : State) : s.mixSample.1.busy = s.busy := rfl
@[simp] theorem State.mixSample_mem (s : State) : s.mixSample.1.mem = s.mem := rfl
@[simp] theorem State.mixSample_cpu (s : State) : s.mixSample.1.cpu = s.cpu := rfl
@[simp] theorem State.mixSample_seq (s : State) : s.mixSample.1.seq = s.seq := rfl
@[simp] theorem State.mixSample_out (s : State) : s.mixSample.1.out = s.out := rfl
@[simp] theorem State.mixSample_params (s : State) : s.mixSample.1.params = s.params := rfl
@[simp] theorem State.mixSample_oob (s : State) : s.mixSample.1.oob = s.oob := rfl
@[simp] theorem State.ticked_sessionFault (s : State) (l : List Timer) : (s.ticked l).sessionFault = s.sessionFault := rfl
@[simp] theorem State.ticked_irqFailed (s : State) (l : List Timer) : (s.ticked l).irqFailed = s.irqFailed := rfl
@[simp] theorem State.ticked_hostRate (s : State) (l : List Timer) : (s.ticked l).hostRate = s.hostRate := rfl
@[simp] theorem State.ticked_mem (s : State) (l : List Timer) : (s.ticked l).mem = s.mem := rfl
@[simp] theorem State.ticked_cpu (s : State) (l : List Timer) : (s.ticked l).cpu = s.cpu := rfl
@[simp] theorem State.ticked_seq (s : State) (l : List Timer) : (s.ticked l).seq = s.seq := rfl
@[simp] theorem State.ticked_out (s : State) (l : List Timer) : (s.ticked l).out = s.out := rfl
@[simp] theorem State.ticked_params (s : State) (l : List Timer) : (s.ticked l).params = s.params := rfl
@[simp] theorem State.ticked_oob (s : State) (l : List Timer) : (s.ticked l).oob = s.oob := rfl
@[simp] theorem State.ticked_psg (s : State) (l : List Timer) : (s.ticked l).psg = s.psg := rfl
@[simp] theorem State.pushSample_sessionFault (s : State) (x : Int) (d : Bool) : (s.pushSample x d).sessionFault = s.sessionFault := rfl
@[simp] theorem State.pushSample_irqFailed (s : State) (x : Int) (d : Bool) : (s.pushSample x d).irqFailed = s.irqFailed := rfl
@[simp] theorem State.pushSample_hostRate (s : State) (x : Int) (d : Bool) : (s.pushSample x d).hostRate = s.hostRate := rfl
@[simp] theorem State.pushSample_busy (s : State) (x : Int) (d : Bool) : (s.pushSample x d).busy = s.busy := rfl
@[simp] theorem State.pushSample_mem (s : State) (x : Int) (d : Bool) : (s.pushSample x d).mem = s.mem := rfl
@[simp] theorem State.pushSample_cpu (s : State) (x : Int) (d : Bool) : (s.pushSample x d).cpu = s.cpu := rfl
@[simp] theorem State.pushSample_seq (s : State) (x : Int) (d : Bool) : (s.pushSample x d).seq = s.seq := rfl
@[simp] theorem State.pushSample_params (s : State) (x : Int) (d : Bool) : (s.pushSample x d).params = s.params := rfl
@[simp] theorem State.pushSample_oob (s : State) (x : Int) (d : Bool) : (s.pushSample x d).oob = s.oob := rfl
@[simp] theorem State.pushSample_psg (s : State) (x : Int) (d : Bool) : (s.pushSample x d).psg = s.psg := rfl
@[simp] theorem State.pushSample_mfp (s : State) (x : Int) (d : Bool) : (s.pushSample x d).mfp = s.mfp := rfl
@[simp] theorem State.advanceTick_sessionFault (s : State) : s.advanceTick.sessionFault = s.sessionFault := rfl
@[simp] theorem State.advanceTick_irqFailed (s : State) : s.advanceTick.irqFailed = s.irqFailed := rfl
@[simp] theorem State.advanceTick_hostRate (s : State) : s.advanceTick.hostRate = s.hostRate := rfl
@[simp] theorem State.advanceTick_busy (s : State) : s.advanceTick.busy = s.busy := rfl
@[simp] theorem State.advanceTick_mem (s : State) : s.advanceTick.mem = s.mem := rfl
@[simp] theorem State.advanceTick_cpu (s : State) : s.advanceTick.cpu = s.cpu := rfl
@[simp] theorem State.advanceTick_out (s : State) : s.advanceTick.out = s.out := rfl
@[simp] theorem State.advanceTick_params (s : State) : s.advanceTick.params = s.params := rfl
@[simp] theorem State.advanceTick_oob (s : State) : s.advanceTick.oob = s.oob := rfl
@[simp] theorem State.advanceTick_psg (s : State) : s.advanceTick.psg = s.psg := rfl
@[simp] theorem State.advanceTick_mfp (s : State) : s.advanceTick.mfp = s.mfp := rfl

theorem clamp_bounds (v : Int) : -32768 ≤ clamp v (-32768) 32767 ∧ clamp v (-32768) 32767 ≤ 32767 := by
  unfold clamp
  omega

theorem Psg.sample_regs (T : Config.Tables) (q : Config.Params) (rate : Nat) (p : Psg) :
    (p.sample T q rate).1.regs = p.regs := by
  show (p.resample T q rate).1.regs = _
  rw [Psg.resample_psg]
  generalize p.tickCount rate = n
  have h : ∀ (n : Nat) (p : Psg), (times (fun p => p.timedTick T q rate) n p).regs = p.regs := by
    intro n
    induction n with
    | zero => intro p; rfl
    | succ n ih => intro p; exact (ih _).trans (Psg.tick_regs _ _ _)
  exact h n _

theorem Psg.debugWord_eq (p : Psg) : p.debugWord = debugComposite p.voiceLvl := by
  unfold Psg.debugWord debugComposite
  have ha := p.voiceLvl.a.isLt
  have hb := p.voiceLvl.b.isLt
  have hc := p.voiceLvl.c.isLt
  generalize p.voiceLvl.a = a at *
  generalize p.voiceLvl.b = b at *
  generalize p.voiceLvl.c = c at *
  apply BitVec.eq_of_toNat_eq
  simp only [BitVec.toNat_append, BitVec.toNat_setWidth, BitVec.toNat_ofNat]
  rw [← Nat.shiftLeft_add_eq_or_of_lt (by omega), ← Nat.shiftLeft_add_eq_or_of_lt (by omega),
    ← Nat.shiftLeft_add_eq_or_of_lt (by omega)]
  have h0 : (0 : Byte).toNat = 0 := rfl
  simp only [Nat.shiftLeft_eq, h0]
  omega

/-! ## The play call (45 R373, R374) -/

/-- The slices of a play call: the least number that covers a tick of the module, and at least one. -/
theorem tickTimeoutFrames_bounds {r : Nat} (h : 1 ≤ r) :
    1 ≤ Config.tickTimeoutFrames r ∧ (50 ≤ r → Config.tickTimeoutFrames r = 1) ∧
      (Config.tickTimeoutFrames r - 1) * r < 50 ∧ 50 ≤ Config.tickTimeoutFrames r * r := by
  have h1 := Nat.div_mul_le_self (50 + r - 1) r
  have h2 := Nat.lt_div_mul_add (a := 50 + r - 1) (b := r) h
  have h3 : 1 ≤ (50 + r - 1) / r := (Nat.one_le_div_iff h).2 (by omega)
  have h4 : 50 ≤ r → (50 + r - 1) / r < 2 := fun h5 => (Nat.div_lt_iff_lt_mul h).2 (by omega)
  have e : Config.tickTimeoutFrames r = (50 + r - 1) / r := Nat.max_eq_right h3
  rw [e]
  generalize (50 + r - 1) / r = q at *
  rw [Nat.sub_mul]
  omega

theorem State.startPlay_started {s : State} (hm : s.MemoryInv) (hr : 1 ≤ s.seq.tickRate) (r : Render) :
    PlayStarted s (s.startPlay r) r := by
  have hp := Memory.wf_pushFrame hm .rts
  have hv := Memory.vector_reads hp (frameBase .rts) (BitVec.ofNat 24 (Config.loadAddr + 8))
  have hf : ((s.mem.pushFrame .rts).setVector (frameBase .rts) (BitVec.ofNat 24 (Config.loadAddr + 8))).read32 0xFFFC =
      0x500 := by
    rw [← Memory.frame_rts hm]
    exact Memory.read32_congr fun k h1 _ => Memory.read_setVector _ _ _ (by omega)
  have ho : ∀ a, 8 ≤ a → (a < 0xFFFC ∨ 0x10000 ≤ a) →
      ((s.mem.pushFrame .rts).setVector (frameBase .rts) (BitVec.ofNat 24 (Config.loadAddr + 8))).read a = s.mem.read a :=
    fun a h8 h => (Memory.read_setVector _ _ _ h8).trans (Memory.read_pushFrame_other _ .rts h)
  have ht := tickTimeoutFrames_bounds hr
  unfold State.startPlay
  rw [State.enterRun_eq]
  generalize Config.tickTimeoutFrames s.seq.tickRate = k at *
  dsimp only
  generalize (s.mem.pushFrame .rts).setVector (frameBase .rts) (BitVec.ofNat 24 (Config.loadAddr + 8)) = m at *
  rw [hv.1, hv.2]
  exact ⟨rfl, rfl, rfl, rfl, ht, rfl, ⟨hv.1, hv.2, hf, ho⟩, ⟨rfl, rfl, rfl⟩, rfl, rfl, rfl, rfl, rfl⟩

/-! ## The render loop -/

theorem State.mixSample_eq (s : State) : s.mixSample = (s.sampleMade, s.sampleValue) := rfl

theorem State.afterTurns_zero (s : State) (d : Bool) : s.afterTurns d 0 = s := rfl

theorem State.afterTurns_succ (s : State) (d : Bool) (k : Nat) :
    s.afterTurns d (k + 1) = State.quietTurn d (s.afterTurns d k) := times_succ _ _ _

theorem State.afterTurns_quietTurn (s : State) (d : Bool) (k : Nat) :
    State.afterTurns (s.quietTurn d) d k = s.afterTurns d (k + 1) := rfl

theorem State.quietTurn_eq (s : State) (d : Bool) :
    ((s.mixSample.1.ticked allTimers).pushSample s.mixSample.2 d).advanceTick = s.quietTurn d := by
  rw [State.mixSample_eq]
  unfold State.pushSample State.quietTurn
  dsimp only
  rw [Psg.debugWord_eq]
  cases d
  · simp only [Bool.false_eq_true, if_false, List.append_nil]
    rfl
  · rfl

@[simp] theorem State.quietTurn_busy (s : State) (d : Bool) : (s.quietTurn d).busy = s.busy := rfl
@[simp] theorem State.quietTurn_irqFailed (s : State) (d : Bool) : (s.quietTurn d).irqFailed = s.irqFailed := rfl
@[simp] theorem State.quietTurn_sessionFault (s : State) (d : Bool) : (s.quietTurn d).sessionFault = s.sessionFault := rfl
@[simp] theorem State.quietTurn_hostRate (s : State) (d : Bool) : (s.quietTurn d).hostRate = s.hostRate := rfl
@[simp] theorem State.quietTurn_params (s : State) (d : Bool) : (s.quietTurn d).params = s.params := rfl
@[simp] theorem State.quietTurn_mem (s : State) (d : Bool) : (s.quietTurn d).mem = s.mem := rfl
@[simp] theorem State.quietTurn_cpu (s : State) (d : Bool) : (s.quietTurn d).cpu = s.cpu := rfl
@[simp] theorem State.quietTurn_psg (s : State) (d : Bool) :
    (s.quietTurn d).psg = (s.psg.sample Config.tables s.params s.hostRate).1 := rfl
@[simp] theorem State.quietTurn_seq (s : State) (d : Bool) :
    (s.quietTurn d).seq = { s.seq with tickAcc := s.seq.tickAcc + s.seq.tickRate } := rfl
@[simp] theorem State.quietTurn_buf (s : State) (d : Bool) : (s.quietTurn d).out.buf = s.out.buf ++ [s.sampleValue] := rfl
@[simp] theorem State.quietTurn_dbg (s : State) (d : Bool) : (s.quietTurn d).out.dbg =
    s.out.dbg ++ (if d = true then [debugComposite (s.psg.sample Config.tables s.params s.hostRate).1.voiceLvl] else []) := rfl

/-- What quiet turns leave in every part but the timer unit and the DMA unit. -/
theorem State.afterTurns_fields (s : State) (d : Bool) (k : Nat) :
    let u := s.afterTurns d k
    u.busy = s.busy ∧ u.irqFailed = s.irqFailed ∧ u.sessionFault = s.sessionFault ∧ u.hostRate = s.hostRate ∧
      u.params = s.params ∧ u.mem = s.mem ∧ u.cpu = s.cpu ∧ u.psg.regs = s.psg.regs ∧
      u.seq = { s.seq with tickAcc := s.seq.tickAcc + k * s.seq.tickRate } ∧
      u.out.buf = s.out.buf ++ ((List.range k).map fun j => (s.afterTurns d j).sampleValue) ∧
      u.psg = times (fun p => (p.sample Config.tables s.params s.hostRate).1) k s.psg ∧
      u.out.dbg = s.out.dbg ++ (if d = true then (List.range k).map fun j => debugComposite
        (times (fun p => (p.sample Config.tables s.params s.hostRate).1) (j + 1) s.psg).voiceLvl else []) := by
  induction k with
  | zero => exact ⟨rfl, rfl, rfl, rfl, rfl, rfl, rfl, rfl, by simp [State.afterTurns_zero], by simp [State.afterTurns_zero],
      rfl, by simp [State.afterTurns_zero]⟩
  | succ k ih =>
    obtain ⟨h1, h2, h3, h4, h5, h6, h7, h8, h9, h10, h11, h12⟩ := ih
    rw [State.afterTurns_succ]
    generalize hu : s.afterTurns d k = u at *
    refine ⟨h1, h2, h3, h4, h5, h6, h7, ?_, ?_, ?_, ?_, ?_⟩
    · rw [State.quietTurn_psg, Psg.sample_regs, h8]
    · rw [State.quietTurn_seq, h9, Nat.succ_mul, Nat.add_assoc]
    · rw [State.quietTurn_buf, h10, List.range_succ, List.map_append, List.append_assoc, List.map_singleton, hu]
    · rw [State.quietTurn_psg, times_succ, h4, h5, h11]
    · rw [State.quietTurn_dbg, h12, List.append_assoc, List.range_succ, List.map_append, List.map_singleton, times_succ,
        ← h11, h4, h5]
      cases d <;> rfl

/-- The masks stay while turns are quiet. -/
theorem State.afterTurns_masks (s : State) (d : Bool) (k : Nat) :
    s.mfp.SameMasks (s.afterTurns d k).mfp ∧ s.mfp.SameMasks (s.afterTurns d k).sampleMade.mfp := by
  induction k with
  | zero => exact ⟨⟨rfl, rfl⟩, dmaSample_masks _ _ _ _⟩
  | succ k ih =>
    rw [State.afterTurns_succ]
    have h := ih.2.trans (Mfp.foldl_masks (s.afterTurns d k).hostRate [.a, .b, .c, .d] (s.afterTurns d k).sampleMade.mfp)
    exact ⟨h, h.trans (dmaSample_masks _ _ _ _)⟩

/-- A turn of the loop in which no timer signals. -/
theorem State.renderLoop_quiet {s : State} (n : Nat) (r : Render) (hb : s.busy = false) (hf : s.sessionFault = false)
    (hi : s.irqFailed = false) (ht : s.seq.tickAcc < s.hostRate) (hq : s.sampleMade.quiet allTimers) :
    State.renderLoop (n + 1) r s = State.renderLoop n { r with done := r.done + 1 } (s.quietTurn r.debug) := by
  have hl := State.timerLoop_quiet (s := s.mixSample.1) hf s.mixSample.2 (some r) hq
  rw [← State.quietTurn_eq]
  conv_lhs => unfold State.renderLoop
  rw [if_neg (Nat.not_le.2 ht)]
  simp only [hl]
  rw [if_neg (by show ¬ s.busy = true; simp [hb]), if_neg]
  show ¬ (s.sessionFault || s.irqFailed) = true
  simp [hf, hi]

/-- Quiet turns, one after the other. -/
theorem State.renderLoop_turns {s : State} (n k : Nat) (r : Render) (hb : s.busy = false) (hq : s.quietTurns r.debug k) :
    State.renderLoop (n + k) r s = State.renderLoop n { r with done := r.done + k } (s.afterTurns r.debug k) := by
  induction k generalizing s r with
  | zero => rfl
  | succ k ih =>
    obtain ⟨h1, h2, h3, h4⟩ := hq 0 (Nat.succ_pos k)
    rw [← Nat.add_assoc, State.renderLoop_quiet (n + k) r hb h1 h2 h3 h4,
      ih (s := s.quietTurn r.debug) { r with done := r.done + 1 } hb fun j hj => hq (j + 1) (Nat.succ_lt_succ hj)]
    simp only [State.afterTurns_quietTurn, Nat.add_assoc, Nat.add_comm 1]

/-- A sample at which a timer signals. -/
theorem State.renderLoop_fires {s : State} (n : Nat) (r : Render) (hf : s.sessionFault = false)
    (ht : s.seq.tickAcc < s.hostRate) {pre post : List Timer} {x : Timer} (e : allTimers = pre ++ x :: post)
    (hq : s.sampleMade.quiet pre) (hx : (s.sampleMade.ticked (pre ++ [x])).fires x) :
    State.renderLoop (n + 1) r s =
      (s.sampleMade.ticked (pre ++ [x])).dispatch x (.irq post s.sampleValue (some r)) := by
  have hl := State.timerLoop_fires (s := s.mixSample.1) hf s.mixSample.2 (some r) (post := post) hq hx
  rw [← e] at hl
  unfold State.renderLoop
  rw [if_neg (Nat.not_le.2 ht)]
  simp only [hl, State.dispatch_busy, if_true]
  rfl

/-- A render disturbed by nothing has quiet turns only. -/
theorem State.undisturbed_quiet {s : State} {k : Nat} (d : Bool) (h : s.undisturbed k) : s.quietTurns d k := by
  obtain ⟨h1, h2, h3, h4, h5⟩ := h
  intro j hj
  obtain ⟨-, f2, f3, f4, -, -, -, -, f9, -⟩ := s.afterTurns_fields d j
  obtain ⟨m1, m2⟩ := (s.afterTurns_masks d j).2
  refine ⟨f3.trans h1, f2.trans h2, ?_, State.quiet_of_masked (m1.trans h3) (m2.trans h4) _⟩
  have := Nat.mul_le_mul_right s.seq.tickRate (show j ≤ k - 1 by omega)
  rw [f9, f4]
  show s.seq.tickAcc + j * s.seq.tickRate < s.hostRate
  omega

theorem State.sampleValue_bounds (s : State) : -32768 ≤ s.sampleValue ∧ s.sampleValue ≤ 32767 := clamp_bounds _

/-- Everything the loop can do from its head. -/
theorem State.renderLoop_goesOn {s : State} (r : Render) (hb : s.busy = false) :
    RenderGoesOn s (State.renderLoop (r.total - r.done) r s) r := by
  have left {k : Nat} (hk : r.done + k < r.total) : r.total - r.done = (r.total - r.done - k - 1 + 1) + k := by omega
  have whole : s.quietTurns r.debug (r.total - r.done) → State.renderLoop (r.total - r.done) r s =
      (s.afterTurns r.debug (r.total - r.done)).answer .ok (.written (r.done + (r.total - r.done))) := fun hq => by
    have h := State.renderLoop_turns 0 (r.total - r.done) r hb hq
    rw [Nat.zero_add] at h
    rw [h]
    rfl
  refine ⟨whole, fun k hk hq hm ht h1 => ?_, fun k hk hq hf ht pre post x e hp hx => ?_, fun hd hu => ?_⟩
  · rw [left hk, State.renderLoop_turns _ k r hb hq, State.renderLoop, if_pos ht]
    exact State.startPlay_started hm h1 _
  · rw [left hk, State.renderLoop_turns _ k r hb hq]
    exact State.renderLoop_fires _ _ hf ht e hp hx
  · obtain ⟨f1, f2, -, -, -, f6, f7, f8, f9, f10, -, f12⟩ := s.afterTurns_fields r.debug (r.total - r.done)
    rw [whole (State.undisturbed_quiet _ hu)]
    refine ⟨⟨rfl, congrArg Value.written (by omega)⟩, ⟨_, f10, by simp, fun x hx => ?_, rfl⟩, f12, ⟨rfl, rfl, rfl⟩,
      ⟨f1, f6, f7, f8, f2.trans hu.2.1⟩, f9⟩
    obtain ⟨k, -, rfl⟩ := List.mem_map.1 hx
    exact State.sampleValue_bounds _

end Sys2Proof.Machine
end

