-- ==== Sys2Proof/Tests/Slice0.lean ====
section
/-! SUPPORT. Tests: ill-formed terms, the decoding of every constructor from words written out from
30_encoding, one-step vectors of 95_test_vectors, and witnesses for the hypotheses of the obligations. -/

namespace Sys2Proof.Tests

open Sys2Proof Sys2Proof.Machine

/-! ## Helpers -/

/-- Whether exec answers a next state that satisfies the check. -/
def after (i : Instr) (s : State) (p : State → Bool) : Bool :=
  match exec i s with
  | .next t => p t
  | _ => false

/-- Whether step answers a next state that satisfies the check. -/
def afterStep (s : State) (p : State → Bool) : Bool :=
  match step s with
  | .next t => p t
  | _ => false

/-- Reset with one input presented. -/
def present (x : Input) : State := { State.reset with inputs := [x] }

/-- Reset inside a run with one slice left. -/
def running (c : Caller) : State := { State.reset with busy := true, run := ⟨c, 1⟩ }

/-- Reset with a loaded module of one subsong. -/
def loaded : State :=
  { State.reset with seq := ⟨true, 1, [0], 50, [0x60, 0x00], 7, 1, 0⟩ }

def withMfp (f : Mfp → Mfp) : State := { State.reset with mfp := f .atReset }
def withPsg (f : Psg → Psg) : State := { State.reset with psg := f .atReset }
def withDma (f : Dma → Dma) : State := { State.reset with dma := f .atReset }

/-! ## Ill-formed terms (R79, R80, R102 to R106, R114) -/

theorem test_wf_refuses_unaligned :
    (Instr.ramRdW 0x1001).wf = false ∧ (Instr.ramWrW 0x1001 0).wf = false ∧ (Instr.busRdL 0x1003).wf = false ∧
    (Instr.busWrL 0x1003 0).wf = false ∧ (Instr.psgReadW 0x01).wf = false ∧ (Instr.psgSelectW 0x01 0).wf = false ∧
    (Instr.psgDataW 0x03 0).wf = false ∧ (Instr.dmaRdW 0x01).wf = false ∧ (Instr.dmaWrW 0x01 0).wf = false ∧
    (Instr.mfpRdW 0x19).wf = false ∧ (Instr.mfpWrW 0x19 0).wf = false ∧ (Instr.unmappedRd .word 0x400001).wf = false ∧
    (Instr.unmappedWr (.word 0) 0x400001).wf = false ∧ (Instr.addrviolA24 .readWord 0x1000001).wf = false := by decide

theorem test_wf_refuses_wrong_port :
    (Instr.psgSelectB 0x02 0).wf = false ∧ (Instr.psgDataB 0x00 0).wf = false ∧ (Instr.psgSelectW 0x02 0).wf = false ∧
    (Instr.psgDataW 0x00 0).wf = false := by decide

theorem test_wf_refuses_wrong_row :
    (Instr.dmaWrDropB 0x01 0).wf = false ∧ (Instr.mfpWrDropB 0x19 0).wf = false ∧ (Instr.dmaWrW 0x22 0).wf = false ∧
    (Instr.dmaWrW 0x24 0).wf = false ∧ (Instr.unmappedRd .byte 0x3FFFFF).wf = false ∧
    (Instr.unmappedWr (.byte 0) 0xFF8800).wf = false := by decide

theorem test_wf_refuses_wrong_violation :
    (Instr.addrviolA24 .readByte 0x2000000).wf = false ∧ (Instr.addrviolA25 .readByte 0x3000000).wf = false ∧
    (Instr.addrviolA26 .readByte 0x6000000).wf = false ∧ (Instr.addrviolA27 .readByte 0xC000000).wf = false := by decide

/-! ## Decoding (30_encoding; the words of V-ENC, and words built from R100, R105, R106, R112, R113) -/

theorem test_decode_violation :
    decode 0x4100000000000000 = .ok (.addrviolA24 (.writeByte 0) 0x1000000) ∧
    decode 0x0200000000000000 = .ok (.addrviolA25 .readByte 0x2000000) ∧
    decode 0x1400000000000000 = .ok (.addrviolA26 .readWord 0x4000000) ∧
    decode 0x6800000000000001 = .ok (.addrviolA27 (.writeLong 1) 0x8000000) ∧
    decode 0x0300000000000000 = .ok (.addrviolA24 .readByte 0x3000000) := by decide

theorem test_decode_long :
    decode 0x60FF88000700FF00 = .ok (.busWrL 0xFF8800 0x0700FF00) ∧
    decode 0x2000200000000000 = .ok (.busRdL 0x002000) := by decide

theorem test_decode_ram :
    decode 0x5000100000001234 = .ok (.ramWrW 0x001000 0x1234) ∧ decode 0x4000100100000034 = .ok (.ramWrB 0x001001 0x34) ∧
    decode 0x0000100100000000 = .ok (.ramRdB 0x001001) ∧ decode 0x1000200200000000 = .ok (.ramRdW 0x002002) ∧
    decode 0x003FFFFF00000000 = .ok (.ramRdB 0x3FFFFF) := by decide

theorem test_decode_psg :
    decode 0x40FF880000000007 = .ok (.psgSelectB 0x00 0x07) ∧ decode 0x40FF88020000003E = .ok (.psgDataB 0x02 0x3E) ∧
    decode 0x00FF880000000000 = .ok (.psgReadB 0x00) ∧ decode 0x50FF880000000700 = .ok (.psgSelectW 0x00 0x07) ∧
    decode 0x50FF88020000FF00 = .ok (.psgDataW 0x02 0xFF) ∧ decode 0x10FF88FE00000000 = .ok (.psgReadW 0xFE) := by decide

theorem test_decode_dma_bytes :
    decode 0x40FF890100000001 = .ok (.dmaWrCtrl 0x01) ∧ decode 0x40FF890300000002 = .ok (.dmaWrStartH 0x02) ∧
    decode 0x40FF890500000003 = .ok (.dmaWrStartM 0x03) ∧ decode 0x40FF890700000004 = .ok (.dmaWrStartL 0x04) ∧
    decode 0x40FF890F00000005 = .ok (.dmaWrEndH 0x05) ∧ decode 0x40FF891100000006 = .ok (.dmaWrEndM 0x06) ∧
    decode 0x40FF891300000007 = .ok (.dmaWrEndL 0x07) ∧ decode 0x40FF892100000083 = .ok (.dmaWrMode 0x83) ∧
    decode 0x40FF892200000009 = .ok (.dmaWrMwdataB false 0x09) ∧
    decode 0x40FF89250000000A = .ok (.dmaWrMwmaskB true 0x0A) ∧ decode 0x40FF890900000012 = .ok (.dmaWrDropB 0x09 0x12) := by
  decide

theorem test_decode_dma_words :
    decode 0x50FF892200000123 = .ok (.dmaWrMwdataW 0x0123) ∧ decode 0x50FF8924000007FF = .ok (.dmaWrMwmaskW 0x07FF) ∧
    decode 0x50FF890000001201 = .ok (.dmaWrW 0x00 0x1201) ∧ decode 0x00FF891500000000 = .ok (.dmaRdB 0x15) ∧
    decode 0x10FF892000000000 = .ok (.dmaRdW 0x20) := by decide

theorem test_decode_mfp_control :
    decode 0x40FFFA1900000007 = .ok (.mfpWrTacr 0x07) ∧ decode 0x40FFFA1B00000001 = .ok (.mfpWrTbcr 0x01) ∧
    decode 0x40FFFA1D00000051 = .ok (.mfpWrTcdcr 0x51) ∧ decode 0x40FFFA1F0000007B = .ok (.mfpWrTadr 0x7B) ∧
    decode 0x40FFFA2100000000 = .ok (.mfpWrTbdr 0x00) ∧ decode 0x40FFFA2300000002 = .ok (.mfpWrTcdr 0x02) ∧
    decode 0x40FFFA2500000003 = .ok (.mfpWrTddr 0x03) ∧ decode 0x10FFFA1E00000000 = .ok (.mfpRdW 0x1E) ∧
    decode 0x00FFFA0100000000 = .ok (.mfpRdB 0x01) ∧ decode 0x50FFFA1800001207 = .ok (.mfpWrW 0x18 0x1207) ∧
    decode 0x40FFFA3100000055 = .ok (.mfpWrDropB 0x31 0x55) := by decide

theorem test_decode_mfp_interrupts :
    decode 0x40FFFA0700000020 = .ok (.mfpWrIera 0x20) ∧ decode 0x40FFFA0900000020 = .ok (.mfpWrIerb 0x20) ∧
    decode 0x40FFFA0B000000DF = .ok (.mfpWrIpra 0xDF) ∧ decode 0x40FFFA0D000000DF = .ok (.mfpWrIprb 0xDF) ∧
    decode 0x40FFFA0F000000DF = .ok (.mfpWrIsra 0xDF) ∧ decode 0x40FFFA11000000DF = .ok (.mfpWrIsrb 0xDF) ∧
    decode 0x40FFFA1300000020 = .ok (.mfpWrImra 0x20) ∧ decode 0x40FFFA1500000020 = .ok (.mfpWrImrb 0x20) ∧
    decode 0x40FFFA1700000048 = .ok (.mfpWrVr 0x48) := by decide

theorem test_decode_mfp_storage :
    decode 0x40FFFA0100000011 = .ok (.mfpWrGpip 0x11) ∧ decode 0x40FFFA0300000012 = .ok (.mfpWrAer 0x12) ∧
    decode 0x40FFFA0500000013 = .ok (.mfpWrDdr 0x13) ∧ decode 0x40FFFA2700000014 = .ok (.mfpWrScr 0x14) ∧
    decode 0x40FFFA2900000015 = .ok (.mfpWrUcr 0x15) ∧ decode 0x40FFFA2B00000016 = .ok (.mfpWrRsr 0x16) ∧
    decode 0x40FFFA2D00000017 = .ok (.mfpWrTsr 0x17) ∧ decode 0x40FFFA2F00000018 = .ok (.mfpWrUdr 0x18) := by decide

theorem test_decode_unmapped :
    decode 0x0040000000000000 = .ok (.unmappedRd .byte 0x400000) ∧
    decode 0x50FF894000001234 = .ok (.unmappedWr (.word 0x1234) 0xFF8940) := by decide

theorem test_decode_host_commands :
    decode 0x800100000000AC44 = .ok (.cmdStartup 44100) ∧ decode 0x80020000000000B4 = .ok (.cmdLoad 180) ∧
    decode 0x8003000000000001 = .ok (.cmdGetSubsongInfo 1) ∧ decode 0x8004000000000001 = .ok (.cmdInitSubSong 1) ∧
    decode 0x8005000000000372 = .ok (.cmdAudioRender 882) ∧ decode 0x8006000000000000 = .ok .cmdRunUntilReturn ∧
    decode 0x8007000000000000 = .ok .cmdComputeNextSample := by decide

theorem test_decode_unit_commands :
    decode 0x8010000000000D0A = .ok (.cmdPsgWriteRegister 0x0D 0x0A) ∧ decode 0x8011000000000000 = .ok .cmdPsgTick ∧
    decode 0x8012000000000000 = .ok .cmdPsgComputeNextSample ∧ decode 0x8013000000000001 = .ok (.cmdPsgInsideTimerIrq true) ∧
    decode 0x8014000000000000 = .ok .cmdPsgReset ∧ decode 0x8020000000000003 = .ok (.cmdTimerTick .d) ∧
    decode 0x8021000000000000 = .ok .cmdTimerReset ∧ decode 0x8022000000000001 = .ok (.cmdTimerAcknowledge .b) ∧
    decode 0x8023000000000000 = .ok (.cmdTimerEvent .a) ∧ decode 0x8030000000000000 = .ok .cmdDmaComputeNextSample ∧
    decode 0x8031000000000000 = .ok .cmdDmaReset := by decide

theorem test_decode_callbacks :
    decode 0xC001000000000500 = .ok (.cbReset 0x000500) ∧ decode 0xC002000000004AFC = .ok (.cbIllegal 0x4AFC) ∧
    decode 0xC003000000000048 = .ok (.cbGemdos 0x48) := by decide

/-- V-ENC-17 to V-ENC-21, each refused by its name. -/
theorem test_decode_reserved :
    decode 0x7000000000000000 = .error .reservedSize ∧ decode 0x8008000000000000 = .error .unlistedCode ∧
    decode 0x8101000000000000 = .error .reservedField ∧ decode 0x1000100100000000 = .error .oddAddress ∧
    decode 0x5100000100000000 = .error .oddAddress ∧ decode 0xC000000000000000 = .error .unlistedCode := by decide

/-! ## Bus (V-BUS) -/

/-- V-BUS-1 -/
theorem test_ram_word_is_big_endian :
    after (.ramWrW 0x1000 0x1234) .reset (fun t => t.mem.read 0x1000 == 0x12 && t.mem.read 0x1001 == 0x34) = true := by
  decide

/-- V-BUS-1 -/
theorem test_long_write_bytes :
    after (.busWrL 0x2000 0xAABBCCDD) .reset (fun t => t.mem.read 0x2000 == 0xAA && t.mem.read 0x2003 == 0xDD
      && after (.ramRdW 0x2002) t (fun u => u.out.bus == .word 0xCCDD)) = true := by decide

/-- V-BUS-2 -/
theorem test_unmapped_reads :
    after (.unmappedRd .byte 0x400000) .reset (fun t => t.out.bus == .byte 0xFF && t.exit == .none) = true ∧
    after (.busRdL 0xFF8940) .reset (fun t => t.out.bus == .long 0xFFFFFFFF) = true := by decide

/-- V-BUS-2 -/
theorem test_unmapped_write : exec (.unmappedWr (.byte 0x12) 0x400000) .reset = .next .reset := by rfl

/-- V-BUS-3 -/
theorem test_long_write_to_psg :
    after (.busWrL 0xFF8800 0x0700FF00) .reset (fun t => t.psg.sel == 7 && t.psg.regs[(7 : Fin 14)] == 0xFF) = true := by
  decide

/-- V-BUS-4 -/
theorem test_violation_write :
    after (.addrviolA24 (.writeByte 0) 0x1000000) (running .host)
      (fun t => t.exit == .addressViolation && t.exitInfo == 0x1000000 && t.mem == Memory.atReset) = true := by decide

/-- V-BUS-4 -/
theorem test_violation_long_past_the_top :
    after (.busWrL 0xFFFFFE 0x11223344) (running .host)
      (fun t => t.exit == .addressViolation && t.mem == Memory.atReset) = true := by decide

/-- V-BUS-5 -/
theorem test_straddling_long :
    after (.busWrL 0x3FFFFE 0x11223344) .reset (fun t => t.mem.read 0x3FFFFE == 0x11 && t.mem.read 0x3FFFFF == 0x22
      && after (.busRdL 0x3FFFFE) t (fun u => u.out.bus == .long 0x1122FFFF)) = true := by decide

/-- V-BUS-6 -/
theorem test_odd_word_refused : performWord 0x1000100100000000 .reset = .refused .reservedWord := by rfl

/-- A byte equal to what an unlisted address reads as is not listed. -/
theorem test_memory_canonical : Memory.write (Memory.write [] 5 1) 5 0 = [] ∧ Memory.wf Memory.atReset = true := by decide

/-! ## PSG (V-REG, V-TONE, V-NOISE, V-ENV, V-DC) -/

/-- V-REG-1 -/
theorem test_select_mirror : after (.psgSelectB 0x05 0x0D) .reset (fun t => t.psg.sel == 13) = true := by decide

/-- V-REG-2, registers 1 and 6 -/
theorem test_masks :
    after (.psgDataB 0x02 0xFF) (withPsg fun p => { p with sel := 1 }) (fun t => t.psg.regs[(1 : Fin 14)] == 0x0F) = true ∧
    after (.psgDataW 0x02 0xFF) (withPsg fun p => { p with sel := 6 }) (fun t => t.psg.regs[(6 : Fin 14)] == 0x1F) = true := by
  decide

/-- V-REG-3 -/
theorem test_out_of_range_select :
    after (.psgDataB 0x02 0x55) (withPsg fun p => { p with sel := 14 }) (fun t => t.psg.regs == Vector.replicate 14 0) = true ∧
    after (.psgReadB 0x00) (withPsg fun p => { p with sel := 0x10 }) (fun t => t.out.bus == .byte 0xFF) = true := by decide

/-- V-REG-4 -/
theorem test_read_lanes :
    after (.psgReadW 0x00) (withPsg fun p => { p with sel := 7, regs := p.regs.set 7 0x3E })
      (fun t => t.out.bus == .word 0x3EFF) = true ∧
    after (.psgReadB 0x02) (withPsg fun p => { p with sel := 7, regs := p.regs.set 7 0x3E })
      (fun t => t.out.bus == .byte 0xFF) = true := by decide

/-- V-REG-5 -/
theorem test_select_word : performWord 0x50FF880000000800 .reset = exec (.psgSelectW 0 8) .reset := by rfl

/-- V-REG-6 -/
theorem test_tone_period :
    after (.cmdPsgWriteRegister 1 0xFF) (withPsg fun p => { p with regs := p.regs.set 0 0x34 })
      (fun t => t.psg.regs[(1 : Fin 14)] == 0x0F && t.psg.tonePeriod.a == 0xF34) = true := by decide

/-- V-REG-7 -/
theorem test_shape_write :
    after (.cmdPsgWriteRegister 13 0xF9) (withPsg fun p => { p with envPos := 5, envAlt := true, envTab := 4 })
      (fun t => t.psg.regs[(13 : Fin 14)] == 9 && t.psg.envTab.val == 3 && t.psg.envPos == -32 && !t.psg.envAlt) = true := by
  decide

/-- V-TONE-1 and V-NOISE-1, V-NOISE-2: the first tick from reset -/
theorem test_first_tick :
    after .cmdPsgTick .reset (fun t => t.psg.edge.a && t.psg.half && t.psg.lfsr == 0x10000 && !t.psg.noiseBit) = true := by
  decide

/-- V-TONE-3 -/
theorem test_lowered_period :
    after .cmdPsgTick (withPsg fun p => { p with tonePeriod := ⟨10, 0, 0⟩, toneCnt := ⟨50, 0, 0⟩ })
      (fun t => t.psg.toneCnt.a == 0 && t.psg.edge.a) = true := by decide

/-- V-TONE-5 -/
theorem test_deferred_reset :
    after (.cmdPsgWriteRegister 0 0) (withPsg fun p => { p with inside := true }) (fun t => t.psg.needReset.a) = true ∧
    after (.cmdPsgInsideTimerIrq false) (withPsg fun p => { p with inside := true, needReset := ⟨true, false, false⟩ })
      (fun t => t.psg.edge.a && !t.psg.edge.b && !t.psg.needReset.a && !t.psg.inside) = true := by decide

/-- V-NOISE-1, steps 15 and 18 -/
theorem test_noise_steps : lfsrNext 0x00008 = 0x10004 ∧ lfsrNext 0x04001 = 0x12000 := by decide

/-- V-ENV-4 -/
theorem test_envelope_level :
    after .cmdPsgTick (withPsg fun p => (p.writeReg 7 0x3F).writeReg 13 0x0B |>.writeReg 8 0x10)
      (fun t => t.psg.envPos == -31 && t.psg.voiceLvl.a == 30) = true := by decide

/-- V-REG-8 and V-ENV-1 -/
theorem test_envelope_tables :
    envSel 3 = 0 ∧ envSel 7 = 1 ∧ envSel 8 = 2 ∧ envSel 15 = 9 ∧ envTable 5 0 = 31 ∧ envTable 5 32 = 31 ∧
    envTable 8 0 = 0 ∧ envTable 8 32 = 31 := by decide

/-- V-DS-1: the first sample from reset performs 5 ticks -/
theorem test_tick_count : Psg.atReset.tickCount 44100 = 5 := by decide

/-- V-DS-3: the first raw sample of a square wave of 8 ticks under LIN, by either strategy -/
theorem test_downsample :
    let lin : Config.Tables :=
      ⟨fun i => Fin.ofNat _ (512 * (i.toNat % 16 + i.toNat / 16 % 16 + i.toNat / 256)), fun _ => 0⟩
    let p := ((State.reset.psg.writeReg 7 0x3E).writeReg 8 0x0F).writeReg 0 4
    (p.resample lin { Config.Params.default with downsample := .linearAverage } 50000).2 = 1536 ∧
    (p.resample lin Config.Params.default 50000).2 = 7680 := by decide +kernel

/-- V-DC-2: the first output of a constant 7680 -/
theorem test_dc_first : (Psg.atReset.dcPush 7680).dcOut 7680 = 7677 := by decide

theorem test_psg_sample_completes :
    after .cmdPsgComputeNextSample .reset (fun t => t.psg.psgAcc == 29500 && t.out.result == .ok) = true := by decide +kernel

theorem test_psg_reset : after .cmdPsgReset (withPsg fun p => { p with sel := 9 }) (fun t => t.psg.sel == 0) = true := by
  decide

/-! ## Timer unit (V-TMR) -/

/-- V-TMR-1 -/
theorem test_timer_tick :
    after (.cmdTimerTick .a)
      { withMfp (fun m => { m with tadr := 1, tacr := 1, iera := 0x20, imra := 0x20, cnt := ⟨1, 256, 256, 256⟩ }) with
        hostRate := 48000 }
      (fun t => t.mfp.ipra == 0x20 && t.mfp.cnt.a == 1 && t.mfp.tacc.a == 153600 && t.out.value == .fired true) = true := by
  decide

/-- V-TMR-5 -/
theorem test_data_stopped_and_running :
    after (.mfpWrTadr 0x7B) .reset (fun t => t.mfp.tadr == 123 && t.mfp.cnt.a == 123) = true ∧
    after (.mfpWrTadr 0x10) (withMfp fun m => { m with tacr := 7 }) (fun t => t.mfp.cnt.a == 256) = true := by decide

theorem test_data_other_timers :
    after (.mfpWrTbdr 0x00) .reset (fun t => t.mfp.cnt.b == 256) = true ∧
    after (.mfpWrTcdr 0x05) (withMfp fun m => { m with tcdcr := 0x01 }) (fun t => t.mfp.cnt.c == 5) = true ∧
    after (.mfpWrTddr 0x05) (withMfp fun m => { m with tcdcr := 0x01 }) (fun t => t.mfp.cnt.d == 256) = true := by decide

/-- V-TMR-7 -/
theorem test_event_count :
    after (.cmdTimerEvent .a) (withMfp fun m => { m with tacr := 8, tadr := 2, iera := 0x20, cnt := ⟨1, 1, 1, 1⟩ })
      (fun t => t.mfp.cnt.a == 2 && t.mfp.ipra == 0x20) = true ∧
    after (.cmdTimerEvent .b) (withMfp fun m => { m with tbcr := 8, ierb := 0xFF, cnt := ⟨1, 1, 1, 1⟩ })
      (fun t => t.mfp.cnt.b == 1) = true := by decide

/-- V-TMR-8 -/
theorem test_enable_clears_pending :
    after (.mfpWrIera 0x00) (withMfp fun m => { m with ipra := 0x20, iera := 0x20 }) (fun t => t.mfp.ipra == 0) = true ∧
    after (.mfpWrIerb 0x20) (withMfp fun m => { m with iprb := 0x30 }) (fun t => t.mfp.iprb == 0x20) = true := by decide

/-- V-TMR-8 -/
theorem test_pending_only_cleared :
    after (.mfpWrIpra 0xDF) (withMfp fun m => { m with ipra := 0x21 }) (fun t => t.mfp.ipra == 0x01) = true ∧
    after (.mfpWrIprb 0xFF) .reset (fun t => t.mfp.iprb == 0) = true := by decide

theorem test_in_service_only_cleared :
    after (.mfpWrIsra 0xDF) (withMfp fun m => { m with isra := 0x20 }) (fun t => t.mfp.isra == 0) = true ∧
    after (.mfpWrIsrb 0xFF) .reset (fun t => t.mfp.isrb == 0) = true := by decide

theorem test_masks_store :
    after (.mfpWrImra 0x20) .reset (fun t => t.mfp.imra == 0x20 && t.mfp.imrb == 0) = true ∧
    after (.mfpWrImrb 0x30) .reset (fun t => t.mfp.imrb == 0x30 && t.mfp.imra == 0) = true := by decide

/-- V-TMR-9 -/
theorem test_acknowledge :
    after (.cmdTimerAcknowledge .a) (withMfp fun m => { m with vr := 0x48, ipra := 0x20 })
      (fun t => t.mfp.ipra == 0 && t.mfp.isra == 0x20) = true ∧
    after (.cmdTimerAcknowledge .c) (withMfp fun m => { m with vr := 0x40, iprb := 0x30 })
      (fun t => t.mfp.iprb == 0x10 && t.mfp.isrb == 0) = true := by decide

/-- V-TMR-9 -/
theorem test_vector_register :
    after (.mfpWrVr 0x40) (withMfp fun m => { m with vr := 0x48, isra := 0x20 })
      (fun t => t.mfp.isra == 0 && t.mfp.vr == 0x40) = true ∧
    after (.mfpWrVr 0xFF) (withMfp fun m => { m with isra := 0x20 }) (fun t => t.mfp.vr == 0xF8 && t.mfp.isra == 0x20) = true := by
  decide

/-- V-TMR-10 -/
theorem test_mode_change :
    after (.mfpWrTacr 0x17) (withMfp fun m => { m with tacr := 7, tacc := ⟨9, 9, 9, 9⟩ })
      (fun t => t.mfp.tacr == 7 && t.mfp.tacc.a == 9) = true ∧
    after (.mfpWrTcdcr 0x51) (withMfp fun m => { m with tcdcr := 0x50, tacc := ⟨9, 9, 9, 9⟩ })
      (fun t => t.mfp.tcdcr == 0x51 && t.mfp.tacc.c == 9 && t.mfp.tacc.d == 0) = true ∧
    after (.mfpWrTbcr 0x01) (withMfp fun m => { m with tacc := ⟨9, 9, 9, 9⟩ })
      (fun t => t.mfp.tacc.b == 0 && t.mfp.tacc.a == 9) = true := by decide

/-- V-TMR-11 -/
theorem test_in_service_gate :
    Mfp.signal true { Mfp.atReset with isra := 0x20, iprb := 0x10, imrb := 0x10 } .d = false ∧
    Mfp.signal false { Mfp.atReset with isra := 0x20, iprb := 0x10, imrb := 0x10 } .d = true := by decide

/-- V-TMR-13 -/
theorem test_window_reads :
    after (.mfpRdB 0x01) (withMfp fun m => { m with ddr := 0x0F }) (fun t => t.out.bus == .byte 0xF0) = true ∧
    after (.mfpRdW 0x18) (withMfp fun m => { m with tacr := 7 }) (fun t => t.out.bus == .word 0xFF07) = true ∧
    after (.mfpRdB 0x21) .reset (fun t => t.out.bus == .byte 0x00) = true := by decide

theorem test_window_writes :
    after (.mfpWrW 0x16 0x1248) .reset (fun t => t.mfp.vr == 0x48) = true ∧
    exec (.mfpWrDropB 0x31 0x55) .reset = .next .reset := ⟨by decide, rfl⟩

/-! ## DMA unit (V-DMA) -/

/-- V-DMA-1 -/
theorem test_dma_first_sample :
    after .cmdDmaComputeNextSample
      { withDma (fun d => { d with ctrl := 1, mode := 0x83, ptr := 0x20000, curEnd := 0x20002 }) with
        hostRate := 50066, mem := [(0x20000, 0x10), (0x20001, 0xF0)] }
      (fun t => t.out.value == .sample 1024 && t.dma.ptr == 0x20001 && t.dma.ctrl == 1) = true := by decide

/-- V-DMA-4 -/
theorem test_dma_loop_event :
    after .cmdDmaComputeNextSample
      { withDma (fun d => { d with ctrl := 3, mode := 0x83, ptr := 0x20003, curEnd := 0x20004, frameStart := 0x20000 }) with
        hostRate := 50066, mfp := { Mfp.atReset with tacr := 8, cnt := ⟨2, 1, 1, 1⟩ } }
      (fun t => t.dma.ptr == 0x20000 && t.dma.ctrl == 3 && t.mfp.cnt.a == 1) = true := by decide

/-- V-DMA-2 -/
theorem test_dma_stereo :
    Dma.frameValue [(0, 0xFF)] Dma.atReset * 64 = -64 ∧ Dma.frameValue [(0, 0x80), (1, 0x80)] Dma.atReset * 64 = -8192 := by
  decide

/-- V-DMA-7 -/
theorem test_dma_frame_bytes :
    after (.dmaWrStartH 0xFF) .reset (fun t => t.dma.frameStart == 0x3F0000) = true ∧
    after (.dmaWrStartL 0xFF) .reset (fun t => t.dma.frameStart == 0x0000FE) = true ∧
    after (.dmaWrStartM 0xFF) .reset (fun t => t.dma.frameStart == 0x00FF00) = true ∧
    after (.dmaWrEndH 0x02) .reset (fun t => t.dma.frameEnd == 0x020000) = true ∧
    after (.dmaWrEndM 0x01) .reset (fun t => t.dma.frameEnd == 0x000100) = true ∧
    after (.dmaWrEndL 0x05) .reset (fun t => t.dma.frameEnd == 0x000004) = true := by decide

/-- V-DMA-8 and the example of R302 -/
theorem test_dma_control :
    after (.dmaWrCtrl 1) (withDma fun d => { d with frameStart := 0x20000, frameEnd := 0x20004 })
      (fun t => t.dma.ptr == 0x20000 && t.dma.curEnd == 0x20004) = true ∧
    after (.dmaWrCtrl 3) (withDma fun d => { d with ctrl := 1, ptr := 5 }) (fun t => t.dma.ptr == 5 && t.dma.ctrl == 3) = true := by
  decide

/-- V-DMA-9 -/
theorem test_dma_window :
    exec (.dmaWrDropB 0x09 0x12) .reset = .next .reset ∧
    after (.dmaWrW 0x00 0x1201) .reset (fun t => t.dma.ctrl == 1) = true ∧
    after (.dmaRdB 0x15) .reset (fun t => t.out.bus == .byte 0xFF) = true ∧
    after (.dmaRdW 0x20) (withDma fun d => { d with mode := 0x83 }) (fun t => t.out.bus == .word 0xFF83) = true :=
  ⟨rfl, by decide, by decide, by decide⟩

/-- V-DMA-9, and the byte halves of R300 -/
theorem test_dma_microwire :
    after (.dmaWrMwmaskW 0x07FF) .reset (fun t => after (.dmaRdW 0x24) t fun u => u.out.bus == .word 0x07FF) = true ∧
    after (.dmaWrMwdataB false 0x12) .reset (fun t => t.dma.mwData == 0x1200) = true ∧
    after (.dmaWrMwmaskB true 0x34) .reset (fun t => t.dma.mwMask == 0x0034) = true ∧
    after (.dmaWrMwdataW 0x1234) .reset (fun t => t.dma.mwData == 0x1234) = true ∧
    after (.dmaWrMode 0xFF) .reset (fun t => t.dma.mode == 0x83) = true := by decide

theorem test_unit_resets :
    after .cmdTimerReset (withMfp fun m => { m with vr := 0x48 }) (fun t => t.mfp.vr == 0 && t.mfp.cnt.d == 256) = true ∧
    after .cmdDmaReset (withDma fun d => { d with ctrl := 3 }) (fun t => t.dma.ctrl == 0) = true := by decide

/-! ## Machine and sequencer (V-MCH) -/

/-- V-MCH-1: the installed memory is the memory of the reset state -/
theorem test_startup_memory :
    Memory.installCookies (Memory.installSentinels []) = Memory.atReset ∧ Memory.atReset.read32 0x600 = 0x5F4D4348 ∧
    Memory.atReset.read32 0x5A0 = 0x600 ∧ Memory.atReset.read16 0x502 = 0x4E70 := by decide

theorem test_startup :
    after (.cmdStartup 48000) (running .host) (fun t => t.out.result == .refused && t.hostRate == 44100) = true ∧
    after (.cmdStartup 48000) .reset (fun t => t.hostRate == 48000 && t.bump == 0x300000 && t.out.result == .ok) = true := by
  decide

/-- The refusal of R331, and R440 on an unstarted machine -/
theorem test_startup_refused :
    after (.cmdStartup 250001) .reset (fun t => t.out.result == .refused) = true ∧
    after .cmdPsgTick { State.reset with started := false } (fun t => t.out.result == .refused) = true := by decide

/-- V-MCH-2 -/
theorem test_run_frame :
    after .cmdRunUntilReturn
      { State.reset with oob := { OutOfBand.atReset with entry := 0x10000, d0 := some 5 } }
      (fun t => t.mem.read32 0xFFFC == 0x500 && t.mem.read32 0 == 0xFFFC && t.mem.read32 4 == 0x10000
        && t.cpu == ⟨0xFFFC, 0x10000, 0x2700, some 5⟩ && t.busy) = true := by decide

/-- V-MCH-2, the frame of a dispatch, and V-TMR-12 -/
theorem test_dispatch_frame :
    let d := (State.reset.dispatch .a (.irq [] 0 none))
    d.mem.read16 0xFFFA = 0x2700 ∧ d.mem.read32 0xFFFC = 0x502 ∧ d.mem.read32 0 = 0xFFFA ∧
    vectorAddr .a = 0x134 ∧ vectorAddr .b = 0x120 ∧ vectorAddr .c = 0x114 ∧ vectorAddr .d = 0x110 := by decide

/-- V-MCH-3 -/
theorem test_subsong_info :
    after (.cmdGetSubsongInfo 1) loaded (fun t => t.out.value == .info ⟨1, 0, 50, 882, 7⟩) = true ∧
    after (.cmdGetSubsongInfo 0) loaded (fun t => t.out.result == .failInvalid) = true := by decide

/-- V-MCH-4 and R373 -/
theorem test_init_subsong :
    after (.cmdInitSubSong 2) loaded (fun t => t.out.result == .failInvalid && t.seq == loaded.seq) = true ∧
    after (.cmdInitSubSong 1) loaded (fun t => t.cpu == ⟨0xFFFC, 0x10000, 0x2700, some 1⟩ && t.mem.read 0x10000 == 0x60) = true := by
  decide

/-- The example of R370, and a module it accepts -/
theorem test_load :
    after (.cmdLoad 7) { loaded with oob := { OutOfBand.atReset with song := some ⟨true, 0, [], 50, []⟩ } }
      (fun t => t.out.result == .failInvalid && !t.seq.loaded) = true ∧
    after (.cmdLoad 7) { State.reset with oob := { OutOfBand.atReset with song := some ⟨true, 1, [0], 50, [1]⟩ } }
      (fun t => t.out.result == .ok && t.seq.loaded && t.seq.defaultDurationSeconds == 7) = true := by decide

/-- R374: no samples, and the play call due before the first sample -/
theorem test_render :
    after (.cmdAudioRender 0) loaded (fun t => t.out.value == .written 0 && t.out.result == .ok) = true ∧
    after (.cmdAudioRender 5) { loaded with seq := { loaded.seq with tickAcc := 44100 } }
      (fun t => t.busy && t.cpu.pc == 0x10008 && t.seq.tickAcc == 0 && t.run == ⟨.play ⟨5, 0, false⟩, 1⟩) = true := by decide

/-- R360 on an idle machine: no handler runs -/
theorem test_sample_completes :
    after .cmdComputeNextSample .reset (fun t => !t.busy && t.out.result == .ok && t.psg.psgAcc == 29500) = true := by decide +kernel

/-- V-MCH-7 -/
theorem test_malloc :
    (State.reset.malloc 0x401).cpu.d0 = some 0x300000 ∧ (State.reset.malloc 0x401).bump = 0x300404 ∧
    ((State.reset.malloc 0x401).malloc 0xFFFFFFFF).cpu.d0 = some 0x0FFBFC ∧
    (State.reset.malloc 0x100001).exit = .allocOverflow ∧ (State.reset.malloc 0x100000).bump = 0x400000 := by decide

/-- V-MCH-8 -/
theorem test_first_condition_kept :
    after (.cbIllegal 0x4AFC) (running .host) (fun t => t.exit == .illegal && t.exitInfo == 0x4AFC
      && after (.cbReset 0x500) t fun u => u.exit == .illegal) = true := by decide

/-- R350, R352 -/
theorem test_gemdos :
    after (.cbGemdos 0x30) (running .host) (fun t => t.cpu.d0 == some 0x1500) = true ∧
    after (.cbGemdos 0x31) (running .host) (fun t => t.exit == .unsupportedTrap && t.exitInfo == 0x31) = true := by decide

/-- V-MCH-9 -/
theorem test_reentrancy :
    after .cmdComputeNextSample (running .host) (fun t => t.out.result == .refused && t.psg.psgAcc == 0) = true := by decide

/-- R340: a run that reaches its sentinel -/
theorem test_run_ends :
    afterStep { running .host with exit := .sentinel, inputs := [.agentReturn 100] }
      (fun t => !t.busy && t.out.result == .ok) = true ∧
    afterStep { running .host with exit := .illegal, inputs := [.agentReturn 100] } (fun t => t.sessionFault) = true := by
  decide

/-- A step performs a presented word and takes it off the inputs. -/
theorem test_step_word :
    afterStep (present (.word 0x40FF880000000007)) (fun t => t.psg.sel == 7 && t.inputs.isEmpty) = true ∧
    afterStep (State.reset.withFetchWord 64 0xC001000000000500) (fun t => t.exit == .sentinel) = true := by decide

/-- R343: a bus word and a trap word of the CPU agent, inside a run and outside one. -/
theorem test_agent_word :
    afterStep { running .host with inputs := [.agentWord 0x40FF880000000007] } (fun t => t.psg.sel == 7) = true ∧
    step (present (.agentWord 0x40FF880000000007)) = .refused .callbackOutsideRun ∧
    step (present (.agentWord 0xC002000000004AFC)) = .refused .callbackOutsideRun := ⟨by decide, rfl, rfl⟩

/-! ## Witnesses: states and operands that meet the hypotheses of the obligations, at the ends of their ranges -/

/-- A started, idle machine at another rate, with a frame of two bytes in RAM and one allocation made. -/
def idle : State :=
  { State.reset with hostRate := 48000, mem := [(0x20000, 0x10), (0x20001, 0xF0)], bump := 0x300004 }

/-- The same machine inside the bounded execution of a caller, with the agent's return presented. -/
def returning (c : Caller) (slices cycles : Nat) (x : ExitCode) : State :=
  { idle with busy := true, run := ⟨c, slices⟩, exit := x, inputs := [.agentReturn cycles] }

/-- The same machine with timer D about to time out, enabled and unmasked. -/
def timerD : State :=
  { idle with mfp := { Mfp.atReset with tcdcr := 1, ierb := 0x10, imrb := 0x10, cnt := ⟨256, 256, 256, 1⟩ } }

/-- A mono frame of four bytes at the start of its playing. -/
def playing : Dma :=
  { Dma.atReset with ctrl := 1, mode := 0x83, ptr := 0x20000, curStart := 0x20000, curEnd := 0x20004 }

/-- A module that Load takes. -/
def module128 : SongModule := ⟨true, 128, List.replicate 128 0, 1, [0x60, 0x00]⟩

theorem idle_ready : idle.ready := ⟨rfl, rfl⟩

theorem idle_memory : idle.MemoryInv := by unfold State.MemoryInv; decide

theorem idle_psg_half (h : Bool) : ({ Psg.atReset with half := h }).Inv 48000 :=
  let p := Psg.Inv.atReset (rate := 48000) (by decide)
  ⟨p.regs, p.tonePeriod, p.noisePeriod, p.envPeriod, p.envTab, p.toneCnt, p.noiseCnt, p.envCnt, p.lfsr, p.noiseBit,
    p.envPos, p.envAlt, p.needReset, p.psgAcc, p.level, p.dcLength, p.dcBound, p.dcSum⟩

theorem idle_rate : idle.RateInv := by unfold State.RateInv; decide

theorem playing_inv : playing.Inv 48000 :=
  ⟨by decide, by decide, by decide, by decide, by decide, by decide, by decide, by decide⟩

/-! ### Encoding and the bus -/

theorem witness_StepPerformsDecodedWord :
    decode 0x40FF880000000007 = .ok (.psgSelectB 0 7) ∧
    (present (.word 0x40FF880000000007)).inputs = .word 0x40FF880000000007 :: [] ∧
    (let s := { running .host with inputs := [.agentWord 0x40FF880000000007] }
     s.inputs = .agentWord 0x40FF880000000007 :: [] ∧ s.busy = true) ∧
    (let s := { idle with inputs := [.agentWord 0xC002000000004AFC] }
     s.busy = false ∧ s.inputs = .agentWord 0xC002000000004AFC :: []) ∧
    (let s := { idle with inputs := [.agentReturn 0] }
     s.busy = false ∧ s.inputs = .agentReturn 0 :: []) := by decide

theorem witness_DecodeEncodeRoundTrip :
    (Instr.ramWrW 0x3FFFFE 0xFFFF).wf = true ∧ (Instr.busRdL 0xFFFFFC).wf = true ∧
    (Instr.unmappedRd .word 0xFFFFFE).wf = true ∧ (Instr.addrviolA24 (.writeLong 1) 0xFFFFFFE).wf = true ∧
    (Instr.cmdTimerTick .d).wf = true ∧ (Instr.cbReset 0xFFFFFF).wf = true := by decide

theorem witness_DecodeYieldsWellFormed : decode 0x503FFFFE0000FFFF = .ok (.ramWrW 0x3FFFFE 0xFFFF) := by decide

theorem witness_ReservedWordsHaveNoStep :
    (present (.word 0x7000000000000000)).inputs = [.word 0x7000000000000000] ∧ Reserved 0x7000000000000000 ∧
    Reserved 0x8008000000000000 ∧ Reserved 0xC100000000000000 ∧ ¬ Reserved 0x4000000000000000 := by
  refine ⟨rfl, .inl (by decide), .inr (.inr (by decide)), .inl (by decide), ?_⟩
  show ¬ ReservedBus _
  unfold ReservedBus
  decide

theorem witness_ReservedWordsHaveNoStep_odd :
    (0x0000001 : WideAddr).getLsbD 0 = true ∧ (0xFFFFFFF : WideAddr).getLsbD 0 = true := by decide

/-- The last even address of each region. -/
theorem witness_ReadsByAddress :
    (0x3FFFFE : Addr).getLsbD 0 = false ∧ (0xFF88FE : Addr).getLsbD 0 = false ∧ (0xFF893E : Addr).getLsbD 0 = false ∧
    (0xFFFA3E : Addr).getLsbD 0 = false ∧ (0xFFFFFE : Addr).getLsbD 0 = false := by decide

/-- The clauses at the last even address of each region, and just outside: R72's map. -/
theorem witness_WritesByAddress :
    (0x3FFFFE : Addr).getLsbD 0 = false ∧ regionOf 0x3FFFFF = .ram 0x3FFFFF ∧ regionOf 0x400000 = .unmapped ∧
    regionOf 0xFF87FF = .unmapped ∧ regionOf 0xFF8800 = .psg 0 ∧ regionOf 0xFF88FF = .psg 0xFF ∧
    regionOf 0xFF8900 = .dma 0 ∧ regionOf 0xFF893F = .dma 0x3F ∧ regionOf 0xFF8940 = .unmapped ∧
    regionOf 0xFFFA00 = .mfp 0 ∧ regionOf 0xFFFA3F = .mfp 0x3F ∧ regionOf 0xFFFA40 = .unmapped := by decide

theorem witness_LongAccessIsTwoWordAccesses :
    (0xFFFFFC : Addr).getLsbD 0 = false ∧ (0xFFFFFC : Addr).toNat + 2 < 2 ^ 24 ∧ idle.exit = .none := by decide

theorem witness_AddressViolationRows :
    BusOp.readWord.alignedAt 0x1000000 = true ∧ (0x1000000 : WideAddr).extractLsb' 24 4 ≠ 0 ∧
    (BusOp.writeLong 1).alignedAt 0xFFFFFFE = true ∧ (0xFFFFFFE : WideAddr).extractLsb' 24 4 ≠ 0 ∧
    idle.exit = .none ∧ (returning .host 1 0 .illegal).exit ≠ .none := by decide

theorem witness_UnmappedAccesses :
    (0x400000 ≤ (0xFF87FC : Addr).toNat ∧ (0xFF87FC : Addr).toNat + 2 ≤ 0xFF87FF ∧ (0xFF87FC : Addr).getLsbD 0 = false) ∧
    (0xFF8940 ≤ (0xFF8940 : Addr).toNat ∧ (0xFFF9FC : Addr).toNat + 2 ≤ 0xFFF9FF ∧ (0xFFF9FC : Addr).getLsbD 0 = false) ∧
    (0xFFFA40 ≤ (0xFFFFFC : Addr).toNat ∧ (0xFFFFFC : Addr).toNat + 2 ≤ 0xFFFFFF ∧ (0xFFFFFC : Addr).getLsbD 0 = false) := by
  decide

theorem witness_BusReadsChangeNothing :
    isBusRead (.ramRdB 0x3FFFFF) = true ∧ isBusRead (.mfpRdW 0x3E) = true ∧ isBusRead (.busRdL 0xFFFFFC) = true := by decide

theorem witness_RamStoresReadBack : idle.MemoryInv ∧ (0x3FFFFE : BitVec 22).getLsbD 0 = false ∧
    (∃ t, (0x3FFFFE : Addr).getLsbD 0 = false ∧ exec (.busWrL 0x3FFFFE 0x11223344) idle = .next t) ∧
    (∃ t, (0xFFFFFC : Addr).toNat + 2 < 2 ^ 24 ∧ exec (.busWrL 0xFFFFFC 0x11223344) idle = .next t) ∧
    (∃ t, exec (.busWrL 0xFFFFFE 0x11223344) idle = .next t) :=
  have h : ∀ a, ∃ t, exec (.busWrL a 0x11223344) idle = .next t := fun a => by
    show ∃ t, execBusWrL a _ _ = _
    unfold execBusWrL
    split <;> exact ⟨_, rfl⟩
  let ⟨t, ht⟩ := h 0x3FFFFE
  let ⟨u, hu⟩ := h 0xFFFFFC
  ⟨idle_memory, by decide, ⟨t, by decide, ht⟩, ⟨u, by decide, hu⟩, h 0xFFFFFE⟩

/-! ### PSG -/

theorem witness_PsgPortWrites :
    ((0x00 : Byte).getLsbD 1 = false ∧ (0x00 : Byte).getLsbD 0 = false) ∧ (0xFD : Byte).getLsbD 1 = false ∧
    ((0xFE : Byte).getLsbD 1 = true ∧ (0xFE : Byte).getLsbD 0 = false) ∧ (0x03 : Byte).getLsbD 1 = true ∧
    14 ≤ (withPsg fun p => { p with sel := 14 }).psg.sel.toNat ∧
    (withPsg fun p => { p with sel := 13 }).psg.sel.toNat = (13 : Fin 14).val := by decide

theorem witness_PsgReadPort :
    ((withPsg fun p => { p with sel := 13 }).psg.sel.toNat = (13 : Fin 14).val ∧ (0xFC : Byte).getLsbD 1 = false ∧
      (0xFC : Byte).getLsbD 0 = false) ∧
    14 ≤ (withPsg fun p => { p with sel := 14 }).psg.sel.toNat ∧ (0x02 : Byte).getLsbD 1 = true ∧
    (0x01 : Byte).getLsbD 0 = true := by decide

theorem witness_WriteRegisterStoresMasked :
    idle.ready ∧ 14 ≤ (14 : Byte).toNat ∧ (13 : Byte).toNat = (13 : Fin 14).val ∧ 7 ≤ (7 : Fin 14).val ∧
    (10 : Fin 14).val ≤ 10 := ⟨idle_ready, by decide, by decide, by decide, by decide⟩

theorem witness_WriteRegisterDerivedState :
    (0 : Fin 14).val / 2 = 0 ∧ (3 : Fin 14).val / 2 = 1 ∧ (5 : Fin 14).val / 2 = 2 ∧ (6 : Fin 14).val / 2 ≠ 2 ∧
    (let p := { Psg.atReset with inside := true }
     p.inside = true ∧ ((p.writeReg 0 1).tonePeriod.get .a).toNat ≤ 1 ∧ ¬ ((p.writeReg 0 2).tonePeriod.get .a).toNat ≤ 1) := by
  decide

theorem witness_EnvelopeTableContents : 0 < 32 ∧ 31 < 32 := by decide

theorem witness_LeavingHandlerResetsEdges :
    idle.ready ∧
    (let s := { idle with psg := { Psg.atReset with inside := true, needReset := ⟨true, false, false⟩ } }
     s.ready ∧ s.psg.inside = true ∧ s.psg.needReset.get .a = true) := ⟨idle_ready, ⟨rfl, rfl⟩, rfl, rfl⟩

theorem witness_TickToneStep :
    idle.ready ∧
    (let p := { Psg.atReset with toneCnt := ⟨4095, 0, 0⟩, tonePeriod := ⟨1, 0, 0⟩ }
     (p.toneCnt.get .a).toNat < 4096 ∧ (p.tonePeriod.get .a).toNat ≤ 1) := ⟨idle_ready, by decide⟩

theorem witness_TickNoiseStep :
    (idle.ready ∧ idle.psg.half = false) ∧
    (let s := { idle with psg := { Psg.atReset with half := true } }
     s.ready ∧ s.psg.half = true) ∧ (1 : BitVec 17) ≠ 0 := ⟨⟨idle_ready, rfl⟩, ⟨⟨rfl, rfl⟩, rfl⟩, by decide⟩

theorem witness_TickEnvelopeStep :
    idle.ready ∧
    (let s := { idle with psg := { Psg.atReset with envPos := 31, envTab := 4 } }
     s.ready ∧ s.psg.envPos = 31 ∧ max s.psg.envPeriod.toNat 1 ≤ (s.psg.envCnt + 1).toNat) :=
  ⟨idle_ready, ⟨rfl, rfl⟩, rfl, by decide⟩

theorem witness_EnvelopeResyncsInThirtyTwoSteps :
    (({ Psg.atReset with half := false }).Inv 48000 ∧ Config.Params.default.envCadence = .half ∧
      Psg.atReset.envPeriod.toNat ≤ 1 ∧ 63 ≤ 63) ∧
    (({ Psg.atReset with half := true }).Inv 48000 ∧ 64 ≤ 64) :=
  ⟨⟨idle_psg_half false, rfl, by decide, by decide⟩, idle_psg_half true, by decide⟩

theorem witness_TickLevels : idle.ready := idle_ready

theorem witness_PsgSampleRunsDueTicks :
    (idle.ready ∧ idle.RateInv ∧ idle.params.downsample = .maxHold) ∧
    (let s := { idle with
       params := { Config.Params.default with downsample := .linearAverage }, psg := { Psg.atReset with psgAcc := 47999 } }
     s.ready ∧ s.RateInv ∧ s.params.downsample = .linearAverage ∧ s.psg.psgAcc < s.hostRate) ∧
    ({ idle with hostRate := 1 }).RateInv ∧ ({ idle with hostRate := 250000 }).RateInv :=
  ⟨⟨idle_ready, idle_rate, rfl⟩, ⟨⟨rfl, rfl⟩, idle_rate, rfl, by decide⟩, by unfold State.RateInv; decide,
    by unfold State.RateInv; decide⟩

theorem witness_PsgSampleRange :
    (idle.ready ∧ idle.PsgInv) ∧ Psg.atReset.Inv 1 ∧ 32767 ≤ 32767 :=
  ⟨⟨idle_ready, idle_rate, idle_psg_half false⟩, Psg.Inv.atReset (by decide), by decide⟩

theorem witness_UnitResets : idle.ready := idle_ready

/-! ### Timer unit and DMA unit -/

theorem witness_TimerWindow :
    ((0x00 : BitVec 6).getLsbD 0 = false ∧ (0x00 : BitVec 6).toNat + 1 = MfpReg.gpip.offset.toNat) ∧
    ((0x2E : BitVec 6).getLsbD 0 = false ∧ (0x2E : BitVec 6).toNat + 1 = MfpReg.udr.offset.toNat) ∧
    ((0x30 : BitVec 6).getLsbD 0 = false ∧ 0x30 ≤ (0x30 : BitVec 6).toNat) ∧ 0x30 ≤ (0x3F : BitVec 6).toNat := by decide

theorem witness_TimerTickCountsDown : idle.ready ∧ prescaleList.getD ((7 : Byte).toNat % 16) 0 = 200 :=
  ⟨idle_ready, by decide⟩

theorem witness_CountdownReachesTimeout :
    Mfp.resetAll.Inv 48000 ∧ 255 < Mfp.resetAll.cnt.get .a ∧ 0 < Mfp.resetAll.cnt.get .d ∧ Timer.a ≠ Timer.d :=
  ⟨Mfp.Inv.resetAll, by decide, by decide, by decide⟩

theorem witness_TimerEventAndAcknowledge : ({ idle with mfp := { Mfp.atReset with tacr := 8 } }).ready ∧
    ({ Mfp.atReset with tacr := 8 }).tacr.toNat % 16 = 8 := ⟨⟨rfl, rfl⟩, by decide⟩

theorem witness_DmaControlWrite :
    Dma.atReset.ctrl.getLsbD 0 = false ∧ (0x01 : Byte).getLsbD 0 = true ∧ playing.ctrl.getLsbD 0 = true := by decide

theorem witness_DmaWindow :
    ((0x00 : BitVec 6).getLsbD 0 = false ∧ (0x00 : BitVec 6).toNat + 1 = DmaReg.ctrl.offset.toNat) ∧
    ((0x20 : BitVec 6).getLsbD 0 = false ∧ (0x20 : BitVec 6).toNat ≠ 0x22 ∧ (0x20 : BitVec 6).toNat ≠ 0x24 ∧
      (0x20 : BitVec 6).toNat + 1 = DmaReg.mode.offset.toNat) ∧
    ((0x08 : BitVec 6).getLsbD 0 = false ∧
      (0x08 : BitVec 6).toNat + 1 ∉ [0x01, 0x03, 0x05, 0x07, 0x0F, 0x11, 0x13, 0x21, 0x23, 0x25]) ∧
    (0x00 : BitVec 6).toNat ∉ [0x01, 0x03, 0x05, 0x07, 0x0F, 0x11, 0x13, 0x21, 0x22, 0x23, 0x24, 0x25] ∧
    (0x3F : BitVec 6).toNat ∉ [0x01, 0x03, 0x05, 0x07, 0x0F, 0x11, 0x13, 0x21, 0x22, 0x23, 0x24, 0x25] := by decide

theorem witness_DmaSampleValue :
    (idle.ready ∧ idle.dma.ctrl.getLsbD 0 = false) ∧
    ({ idle with dma := playing }).ready ∧ playing.ctrl.getLsbD 0 = true := ⟨⟨idle_ready, rfl⟩, ⟨rfl, rfl⟩, rfl⟩

/-- The accumulated time 50066 against the rate 48000: one advance, in the frame at its start and at its end;
against the rate 10000: five, past the end of a one-shot frame of four. -/
theorem witness_DmaPointerAdvance :
    (let s := { idle with dma := playing }
     s.ready ∧ s.DmaInv ∧ s.dma.ctrl.getLsbD 0 = true ∧ s.hostRate ≤ s.dma.dacc + 50066 ∧
       s.dma.dacc + 50066 < 2 * s.hostRate ∧ s.dma.ptr.toNat + 1 < s.dma.curEnd.toNat) ∧
    (let s := { idle with dma := { playing with ptr := 0x20003 } }
     s.ready ∧ s.DmaInv ∧ s.dma.ctrl.getLsbD 0 = true ∧ s.dma.curEnd.toNat ≤ s.dma.ptr.toNat + 1) ∧
    (let s := { idle with dma := { playing with mode := 0x80 } }
     s.ready ∧ s.DmaInv ∧ s.dma.ctrl.getLsbD 0 = true ∧ s.dma.dacc + 6258 < s.hostRate) ∧
    (let s := { idle with hostRate := 10000, dma := playing }
     s.ready ∧ s.DmaInv ∧ s.dma.ctrl.getLsbD 0 = true ∧ (s.dma.dacc + 50066) / s.hostRate = 5) :=
  ⟨⟨⟨rfl, rfl⟩, ⟨idle_rate, playing_inv⟩, rfl, by decide, by decide, by decide⟩,
    ⟨⟨rfl, rfl⟩, ⟨idle_rate, by decide, by decide, by decide, by decide, by decide, by decide, by decide, by decide⟩,
      rfl, by decide⟩,
    ⟨⟨rfl, rfl⟩, ⟨idle_rate, by decide, by decide, by decide, by decide, by decide, by decide, by decide, by decide⟩,
      rfl, by decide⟩,
    ⟨⟨rfl, rfl⟩, ⟨by unfold State.RateInv; decide, by decide, by decide, by decide, by decide, by decide, by decide,
      by decide, by decide⟩, rfl, by decide⟩⟩

theorem witness_OneShotFramePlaysOnce :
    1 ≤ 50066 ∧ 1 ≤ 4 ∧ playing.rate = 50066 ∧ playing.mode.getLsbD 7 = true ∧ playing.ctrl = 1 ∧ playing.dacc = 0 ∧
    playing.ptr.toNat + 4 = playing.curEnd.toNat ∧ 3 < 4 := by decide

/-! ### Machine and sequencer -/

theorem witness_StartupResetsMachine :
    idle.busy = false ∧ 1 ≤ (1 : Long).toNat ∧ (1 : Long).toNat ≤ 250000 ∧ 1 ≤ (250000 : Long).toNat ∧
    (250000 : Long).toNat ≤ 250000 := by decide

theorem witness_RefusedCommandsChangeNothing :
    (0 : Long).toNat < 1 ∧ 250000 < (250001 : Long).toNat ∧
    (let s := { idle with oob := { OutOfBand.atReset with frames := 0 } }
     s.ready ∧ s.oob.frames = 0) ∧
    (let o := { OutOfBand.atReset with song := some module128, hostRate := 250001 }
     o.song = some module128 ∧ module128.acceptable = true ∧ 250000 < o.hostRate) ∧
    (running .host).busy = true ∧ ({ idle with started := false }).started = false ∧ needsStartup .cmdDmaReset = true :=
  ⟨by decide, by decide, ⟨⟨rfl, rfl⟩, rfl⟩, ⟨rfl, by decide +kernel, by decide⟩, rfl, rfl, rfl⟩

theorem witness_RunEntryBuildsFrame :
    (idle.ready ∧ idle.MemoryInv ∧ 1 ≤ idle.oob.frames ∧ idle.oob.path = .rts) ∧
    (let s := { idle with oob := { OutOfBand.atReset with path := .rte } }
     s.ready ∧ s.MemoryInv ∧ 1 ≤ s.oob.frames ∧ s.oob.path = .rte) :=
  ⟨⟨idle_ready, idle_memory, by decide, rfl⟩, ⟨rfl, rfl⟩, idle_memory, by decide, rfl⟩

theorem witness_DispatchEntersHandler : idle.MemoryInv := idle_memory

theorem witness_HostRunOutcome :
    (let s := returning .host 2 160000 .none
     s.inputs = .agentReturn 160000 :: [] ∧ s.busy = true ∧ s.exit = .none ∧ 160000 ≤ 160000 ∧ 1 < s.run.framesLeft) ∧
    (let s := returning .host 1 159999 .none
     s.inputs = .agentReturn 159999 :: [] ∧ s.busy = true ∧ s.exit = .none ∧ 159999 < 160000) ∧
    (let s := returning .host 1 0 .sentinel
     s.inputs = .agentReturn 0 :: [] ∧ s.busy = true ∧ s.run.caller = .host ∧ s.exit = .sentinel) ∧
    (let s := returning .host 1 0 .illegal
     s.inputs = .agentReturn 0 :: [] ∧ s.busy = true ∧ s.run.caller = .host ∧ s.exit ≠ .none ∧ s.exit ≠ .sentinel) ∧
    (let s := returning .host 1 160000 .none
     s.inputs = .agentReturn 160000 :: [] ∧ s.busy = true ∧ s.run.caller = .host ∧ s.exit = .none ∧
       s.run.framesLeft ≤ 1) := by decide

/-- A handler that ends with a fatal exit, and one that times out. -/
theorem witness_HandlerReturnAnswersSample_ends :
    (let s := returning (.irq [.d] 5 none) 1 0 .illegal
     s.inputs = .agentReturn 0 :: [] ∧ s.busy = true ∧ s.run.caller = .irq [.d] 5 none ∧ s.runEnds 0 ∧
       s.runEnded.sessionFault = true) ∧
    (let s := returning (.irq [] 5 none) 1 160000 .none
     s.inputs = .agentReturn 160000 :: [] ∧ s.busy = true ∧ s.run.caller = .irq [] 5 none ∧ s.runEnds 160000 ∧
       s.runEnded.sessionFault = false ∧ s.runEnded.quiet []) := by
  refine ⟨⟨rfl, rfl, rfl, ?_, rfl⟩, rfl, rfl, rfl, ?_, rfl, State.quiet_nil _⟩ <;> unfold State.runEnds <;> decide

/-- Timers C and D left to tick, C quiet and D timing out. -/
theorem witness_HandlerReturnAnswersSample_timers :
    let s := { returning (.irq [.c, .d] 5 none) 1 0 .sentinel with mfp := timerD.mfp }
    s.busy = true ∧ s.run.caller = .irq [.c, .d] 5 none ∧ s.runEnds 0 ∧ s.runEnded.sessionFault = false ∧
      [Timer.c, .d] = [.c] ++ .d :: [] ∧ s.runEnded.quiet [.c] ∧ (s.runEnded.ticked ([.c] ++ [.d])).fires .d := by
  refine ⟨rfl, rfl, ?_, rfl, rfl, State.quiet_cons_iff.2 ⟨?_, State.quiet_nil _⟩, ?_⟩
  · unfold State.runEnds
    decide
  · unfold State.fires
    decide +kernel
  · unfold State.fires
    decide +kernel

/-- Inside a render of three samples: a missed sentinel, the last sample, a play call due, and a quiet rest. -/
theorem witness_HandlerReturnAnswersSample_render :
    (let s := returning (.irq [] 5 (some ⟨3, 1, false⟩)) 1 160000 .none
     s.busy = true ∧ s.run.caller = .irq [] 5 (some ⟨3, 1, false⟩) ∧ s.runEnds 160000 ∧ s.exit ≠ .sentinel) ∧
    (let s := returning (.irq [] 5 (some ⟨3, 2, true⟩)) 1 0 .sentinel
     s.busy = true ∧ s.run.caller = .irq [] 5 (some ⟨3, 2, true⟩) ∧ s.runEnds 0 ∧ s.runEnded.sessionFault = false ∧
       s.irqFailed = false ∧ 3 = 2 + 1) ∧
    (let s := { returning (.irq [] 5 (some ⟨3, 1, false⟩)) 1 0 .sentinel with
       seq := { loaded.seq with tickAcc := 47950 } }
     s.runEnds 0 ∧ 1 + 1 < 3 ∧ s.MemoryInv ∧ s.hostRate ≤ s.seq.tickAcc + s.seq.tickRate ∧ 1 ≤ s.seq.tickRate) ∧
    (let s := { returning (.irq [] 5 (some ⟨3, 1, false⟩)) 1 0 .sentinel with
       seq := { loaded.seq with tickAcc := 47949 } }
     s.runEnds 0 ∧ 1 + 1 < 3 ∧
       ({ s.runEnded with seq := { s.seq with tickAcc := s.seq.tickAcc + s.seq.tickRate } }).undisturbed (3 - (1 + 1))) := by
  refine ⟨⟨rfl, rfl, ?_, ?_⟩, ⟨rfl, rfl, ?_, rfl, rfl, rfl⟩, ⟨?_, by decide, idle_memory, by decide, by decide⟩,
    ?_, by decide, ?_⟩
  · unfold State.runEnds; decide
  · decide
  · unfold State.runEnds; decide
  · unfold State.runEnds; decide
  · unfold State.runEnds; decide
  · unfold State.undisturbed; decide

theorem witness_CallbackConditions :
    (running .host).busy = true ∧ (0x31 : Half) ≠ 0x48 ∧ (0x31 : Half) ≠ 0x30 ∧ isCallback (.cbReset 0x500) = true ∧
    idle.busy = false := by decide

/-- The highest stack pointer with its size in RAM, and the sizes -1, the whole of free RAM, and a byte more. -/
theorem witness_MallocBumpsPointer :
    (let s := { returning .host 1 0 .none with
       cpu := ⟨0x3FFFFA, 0, 0x2700, none⟩, mem := [(0x3FFFFC, 0xFF), (0x3FFFFD, 0xFF), (0x3FFFFE, 0xFF), (0x3FFFFF, 0xFF)] }
     s.busy = true ∧ s.BumpInv ∧ (s.cpu.a7.toNat + 2) % 2 = 0 ∧ s.cpu.a7.toNat + 2 + 4 ≤ 0x400000 ∧
       s.mem.read32 (s.cpu.a7.toNat + 2) = 0xFFFFFFFF) ∧
    (let s := { returning .host 1 0 .none with
       cpu := ⟨0x1000, 0, 0x2700, none⟩, mem := [(0x1003, 0x0F), (0x1004, 0xFF), (0x1005, 0xFC)] }
     s.mem.read32 0x1002 = 0x0FFFFC ∧ s.bump.toNat + (0x0FFFFC + 3) / 4 * 4 ≤ 0x400000) ∧
    (let s := { returning .host 1 0 .none with
       cpu := ⟨0x1000, 0, 0x2700, none⟩, mem := [(0x1003, 0x0F), (0x1004, 0xFF), (0x1005, 0xFD)] }
     s.mem.read32 0x1002 = 0x0FFFFD ∧ 0x400000 < s.bump.toNat + (0x0FFFFD + 3) / 4 * 4) := by
  unfold State.BumpInv
  decide

/-- The highest address inside the 24-bit space, an odd stack pointer, the lowest address outside, and the one
address whose second half alone is outside. -/
theorem witness_MallocBumpsPointer_addresses :
    (let a := (0xFFFFFA : Long).toNat + 2
     a % 2 = 0 ∧ a + 2 < 2 ^ 24) ∧
    ((0x1001 : Long).toNat + 2) % 2 = 1 ∧
    (let a := (0xFFFFFE : Long).toNat + 2
     a % 2 = 0 ∧ 2 ^ 24 ≤ a) ∧
    (let a := (0xFFFFFC : Long).toNat + 2
     a % 2 = 0 ∧ a < 2 ^ 24 ∧ 2 ^ 24 ≤ a + 2) := by decide

theorem witness_LoadAndSubsongInfo_load :
    (idle.busy = false ∧ idle.oob.song = none) ∧
    (let m : SongModule := { module128 with subsongCount := 129 }
     128 < m.subsongCount ∧ ({ module128 with subsongCount := 0 }).subsongCount = 0 ∧
       ({ module128 with tickRate := 0 }).tickRate = 0) ∧
    (let s := { idle with oob := { OutOfBand.atReset with song := some module128, hostRate := 250000 } }
     s.busy = false ∧ s.oob.song = some module128 ∧ module128.headerOk = true ∧ 1 ≤ module128.subsongCount ∧
       module128.subsongCount ≤ 128 ∧ 1 ≤ module128.tickRate ∧ module128.duration.length = module128.subsongCount ∧
       1 ≤ s.oob.hostRate ∧ s.oob.hostRate ≤ 250000) := by decide +kernel

theorem witness_LoadAndSubsongInfo_info :
    loaded.ready ∧ (0 : Long).toNat < 1 ∧ loaded.seq.subsongCount < (2 : Long).toNat ∧ idle.seq.loaded = false ∧
    (loaded.seq.loaded = true ∧ 1 ≤ (1 : Long).toNat ∧ (1 : Long).toNat ≤ loaded.seq.subsongCount) :=
  ⟨⟨rfl, rfl⟩, by decide, by decide, rfl, rfl, by decide, by decide⟩

theorem witness_InitSubSongRunsInit :
    (loaded.ready ∧ loaded.seq.loaded = true ∧ 1 ≤ (1 : Long).toNat ∧ (1 : Long).toNat ≤ loaded.seq.subsongCount ∧
      loaded.seq.image.length ≤ 0x3F0000) ∧
    (idle.ready ∧ idle.seq.loaded = false) := ⟨⟨⟨rfl, rfl⟩, rfl, by decide, by decide, by decide⟩, idle_ready, rfl⟩

/-- Init that reaches its sentinel in its first slice, one that is fatal in a later one, and one that uses up its
last. -/
theorem witness_InitOutcome :
    (let s := returning (.init 1) 500 0 .sentinel
     s.inputs = .agentReturn 0 :: [] ∧ s.busy = true ∧ s.run.caller = .init 1 ∧ s.runEnds 0) ∧
    (let s := returning (.init 128) 2 0 .illegal
     s.inputs = .agentReturn 0 :: [] ∧ s.busy = true ∧ s.run.caller = .init 128 ∧ s.runEnds 0) ∧
    (let s := returning (.init 1) 1 160000 .none
     s.inputs = .agentReturn 160000 :: [] ∧ s.busy = true ∧ s.run.caller = .init 1 ∧ s.runEnds 160000) := by
  unfold State.runEnds
  decide

theorem witness_RenderStarts :
    (let s := { idle with sessionFault := true, faultCode := .illegal }
     s.ready ∧ s.sessionFault = true) ∧
    (idle.ready ∧ idle.sessionFault = false ∧ idle.seq.curSubsong = 0) ∧
    (loaded.ready ∧ loaded.sessionFault = false ∧ loaded.seq.curSubsong ≠ 0) ∧
    (let s := { loaded with mem := idle.mem, seq := { loaded.seq with tickAcc := 44100, tickRate := 1 } }
     s.ready ∧ s.sessionFault = false ∧ s.seq.curSubsong ≠ 0 ∧ (1 : Long) ≠ 0 ∧ s.MemoryInv ∧
       s.hostRate ≤ s.seq.tickAcc ∧ 1 ≤ s.seq.tickRate) ∧
    (let s := { loaded with mem := idle.mem, seq := { loaded.seq with tickAcc := 44100, tickRate := 50 } }
     s.ready ∧ s.MemoryInv ∧ 50 ≤ s.seq.tickRate) :=
  ⟨⟨⟨rfl, rfl⟩, rfl⟩, ⟨idle_ready, rfl, rfl⟩, ⟨⟨rfl, rfl⟩, rfl, by decide⟩,
    ⟨⟨rfl, rfl⟩, rfl, by decide, by decide, idle_memory, by decide, by decide⟩, ⟨rfl, rfl⟩, idle_memory, by decide⟩

/-- A play call that is fatal, one that times out, and ones that succeed with the render whole, with the next
play call due, and with a quiet rest. -/
theorem witness_PlayReturnContinuesRender :
    (let s := returning (.play ⟨3, 1, false⟩) 1 0 .illegal
     s.inputs = .agentReturn 0 :: [] ∧ s.busy = true ∧ s.run.caller = .play ⟨3, 1, false⟩ ∧ s.runEnds 0 ∧
       s.exit ≠ .sentinel) ∧
    (let s := returning (.play ⟨3, 1, false⟩) 1 160000 .none
     s.inputs = .agentReturn 160000 :: [] ∧ s.runEnds 160000 ∧ s.exit ≠ .sentinel) ∧
    (let s := returning (.play ⟨1, 1, false⟩) 1 0 .sentinel
     s.runEnds 0 ∧ s.exit = .sentinel ∧ 1 = 1) ∧
    (let s := { returning (.play ⟨3, 0, false⟩) 1 0 .sentinel with
       seq := { loaded.seq with tickAcc := 48000, tickRate := 1 } }
     s.runEnds 0 ∧ s.exit = .sentinel ∧ 0 < 3 ∧ s.MemoryInv ∧ s.hostRate ≤ s.seq.tickAcc ∧ 1 ≤ s.seq.tickRate) ∧
    (let s := { returning (.play ⟨3, 1, true⟩) 2 0 .sentinel with seq := { loaded.seq with tickAcc := 47949 } }
     s.runEnds 0 ∧ s.exit = .sentinel ∧ 1 < 3 ∧ s.runEnded.undisturbed (3 - 1)) := by
  unfold State.runEnds State.undisturbed
  refine ⟨by decide, by decide, by decide, ⟨by decide, rfl, by decide, idle_memory, by decide, by decide⟩, by decide⟩

/-- After a play call, timer D times out on the next sample, the three before it quiet. -/
theorem witness_PlayReturnContinuesRender_fires :
    let s := { returning (.play ⟨3, 1, false⟩) 1 0 .sentinel with mfp := timerD.mfp }
    s.busy = true ∧ s.run.caller = .play ⟨3, 1, false⟩ ∧ s.runEnds 0 ∧ s.exit = .sentinel ∧ 1 + 0 < 3 ∧
      s.runEnded.sessionFault = false ∧ s.runEnded.seq.tickAcc < s.runEnded.hostRate ∧
      [Timer.a, .b, .c, .d] = [.a, .b, .c] ++ .d :: [] ∧ s.runEnded.sampleMade.quiet [.a, .b, .c] ∧
      (s.runEnded.sampleMade.ticked ([.a, .b, .c] ++ [.d])).fires .d := by
  refine ⟨rfl, rfl, ?_, rfl, by decide, rfl, by decide, rfl,
    State.quiet_cons_iff.2 ⟨?_, State.quiet_cons_iff.2 ⟨?_, State.quiet_cons_iff.2 ⟨?_, State.quiet_nil _⟩⟩⟩, ?_⟩
  · unfold State.runEnds
    decide
  all_goals
    unfold State.fires
    decide +kernel

/-- A render whose first sample is quiet, and at whose second a play call is due. -/
theorem witness_RenderStarts_play :
    let s := { loaded with mem := idle.mem, seq := { loaded.seq with tickAcc := 44099, tickRate := 1 } }
    s.ready ∧ s.sessionFault = false ∧ s.seq.curSubsong ≠ 0 ∧ 0 + 1 < 2 ∧ s.quietTurns false 1 ∧
      (s.afterTurns false 1).MemoryInv ∧ (s.afterTurns false 1).hostRate ≤ (s.afterTurns false 1).seq.tickAcc ∧
      1 ≤ (s.afterTurns false 1).seq.tickRate := by
  refine ⟨⟨rfl, rfl⟩, rfl, by decide, by decide, State.undisturbed_quiet false ?_, idle_memory, by decide, by decide⟩
  unfold State.undisturbed
  decide

/-- A render whose first sample is quiet, timer D counting down, and whose second fires timer D. -/
theorem witness_RenderStarts_fires :
    let s := { loaded with mfp := { timerD.mfp with cnt := ⟨256, 256, 256, 14⟩ } }
    s.ready ∧ s.sessionFault = false ∧ s.seq.curSubsong ≠ 0 ∧ s.quietTurns false 1 ∧ 0 + 1 < 2 ∧
      (s.afterTurns false 1).seq.tickAcc < (s.afterTurns false 1).hostRate ∧
      (s.afterTurns false 1).sampleMade.quiet [.a, .b, .c] ∧
      ((s.afterTurns false 1).sampleMade.ticked ([.a, .b, .c] ++ [.d])).fires .d := by
  refine ⟨⟨rfl, rfl⟩, rfl, by decide, fun j hj => ?_, by decide, by decide,
    State.quiet_cons_iff.2 ⟨?_, State.quiet_cons_iff.2 ⟨?_, State.quiet_cons_iff.2 ⟨?_, State.quiet_nil _⟩⟩⟩, ?_⟩
  · obtain rfl : j = 0 := by omega
    refine ⟨rfl, rfl, by decide, State.quiet_cons_iff.2 ⟨?_, State.quiet_cons_iff.2 ⟨?_, State.quiet_cons_iff.2 ⟨?_,
      State.quiet_cons_iff.2 ⟨?_, State.quiet_nil _⟩⟩⟩⟩⟩ <;>
      unfold State.fires <;> decide +kernel
  all_goals
    unfold State.fires
    decide +kernel

/-- The first sample of a render on which timer D times out, the three before it quiet. -/
theorem witness_RenderSampleDispatches :
    ∃ (u v : State) (p d : Int),
      let s := { loaded with mfp := timerD.mfp }
      s.ready ∧ s.sessionFault = false ∧ s.seq.curSubsong ≠ 0 ∧ (1 : Long) ≠ 0 ∧ s.seq.tickAcc < s.hostRate ∧
      exec .cmdPsgComputeNextSample s = .next u ∧ u.out.value = .sample p ∧
      exec .cmdDmaComputeNextSample s = .next v ∧ v.out.value = .sample d ∧
      [Timer.a, .b, .c, .d] = [.a, .b, .c] ++ .d :: [] ∧
      (let made : State := { s with
         psg := u.psg, dma := v.dma, mfp := v.mfp, irqFailed := false, out := { s.out with buf := [], dbg := [] } }
       made.quiet [.a, .b, .c] ∧ (made.ticked ([.a, .b, .c] ++ [.d])).fires .d) := by
  refine ⟨_, _, _, _, ⟨rfl, rfl⟩, rfl, by decide, by decide, by decide, rfl, rfl, rfl, rfl, rfl,
    State.quiet_cons_iff.2 ⟨?_, State.quiet_cons_iff.2 ⟨?_, State.quiet_cons_iff.2 ⟨?_, State.quiet_nil _⟩⟩⟩, ?_⟩ <;>
    unfold State.fires <;> decide +kernel

/-- 881 samples at 50 ticks a second, one less than a tick. -/
theorem witness_QuietRenderWritesEverySample :
    loaded.ready ∧ loaded.sessionFault = false ∧ loaded.seq.curSubsong ≠ 0 ∧ loaded.mfp.imra = 0 ∧ loaded.mfp.imrb = 0 ∧
    (881 : Long) ≠ 0 ∧ loaded.seq.tickAcc + ((881 : Long).toNat - 1) * loaded.seq.tickRate < loaded.hostRate :=
  ⟨⟨rfl, rfl⟩, rfl, by decide, rfl, rfl, by decide, by decide⟩

/-- Every interrupt masked, a session fault, and timer D timing out on the tick of this sample, under either
`ISR_GATING`. -/
theorem witness_ComputeNextSampleOutcomes :
    (idle.ready ∧ idle.sessionFault = false ∧ idle.mfp.imra = 0 ∧ idle.mfp.imrb = 0) ∧
    (let s := { idle with sessionFault := true, faultCode := .illegal }
     s.ready ∧ s.sessionFault = true) ∧
    timerD.ready ∧ timerD.sessionFault = false ∧ [Timer.a, .b, .c, .d] = [.a, .b, .c] ++ .d :: [] ∧
    timerD.mixSample.1.quiet [.a, .b, .c] ∧ (timerD.mixSample.1.ticked ([.a, .b, .c] ++ [.d])).fires .d ∧
    (let s := { timerD with params := { Config.Params.default with isrGating := true } }
     s.params.isrGating = true ∧ (s.mixSample.1.ticked ([.a, .b, .c] ++ [.d])).fires .d) := by
  refine ⟨⟨idle_ready, rfl, rfl, rfl⟩, ⟨⟨rfl, rfl⟩, rfl⟩, ⟨rfl, rfl⟩, rfl, rfl,
    State.quiet_cons_iff.2 ⟨?_, State.quiet_cons_iff.2 ⟨?_, State.quiet_cons_iff.2 ⟨?_, State.quiet_nil _⟩⟩⟩, ?_, rfl, ?_⟩ <;>
    unfold State.fires <;> decide +kernel

/-! ### What every step keeps -/

theorem witness_StepKeepsMemoryCanonical :
    ∃ t, (let s := { idle with inputs := [.word 0x5000100000001234] }
      s.MemoryInv ∧ step s = .next t) := ⟨_, idle_memory, rfl⟩

theorem witness_StepKeepsPsgInvariant :
    ∃ t, (let s := { idle with inputs := [.word 0x40FF880200000055] }
      s.PsgInv ∧ step s = .next t) := ⟨_, ⟨idle_rate, idle_psg_half false⟩, rfl⟩

theorem witness_StepKeepsTimerInvariant :
    ∃ t, (let s := { idle with mfp := Mfp.resetAll, inputs := [.word 0x40FFFA1900000007] }
      s.MfpInv ∧ step s = .next t) := ⟨_, ⟨idle_rate, Mfp.Inv.resetAll⟩, rfl⟩

theorem witness_StepKeepsDmaInvariant :
    ∃ t, (let s := { idle with dma := playing, inputs := [.word 0x40FF890100000003] }
      s.DmaInv ∧ step s = .next t) := ⟨_, ⟨idle_rate, playing_inv⟩, rfl⟩

theorem witness_StepKeepsSession :
    (∃ t, step (returning .host 1 0 .illegal) = .next t) ∧ (returning .host 1 0 .illegal).BumpInv ∧
    (returning .host 1 0 .illegal).FaultInv ∧ loaded.LoadedInv := by
  refine ⟨⟨_, rfl⟩, ?_, ?_, ?_⟩
  · unfold State.BumpInv; decide
  · unfold State.FaultInv; decide
  · unfold State.LoadedInv; decide

end Sys2Proof.Tests
end

section
/-! What every step keeps. A step is a sequence of moves (`step_moves`), so each invariant is settled by
one lemma about a single move: the moves that touch the unit, and all the others at once. -/

namespace Sys2Proof.Machine

open Sys2Proof

/-! ## The sample rate -/

/-- Startup is given a rate R6 allows, or the rate the machine already runs at. -/
theorem State.RateInv.startup {s : State} {rate : Nat} (hs : s.RateInv)
    (h : Config.hostRateOk rate = true ∨ rate = s.hostRate) : (s.startup rate).RateInv := by
  rcases h with h | rfl
  · exact (hostRateOk_iff rate).1 h
  · exact hs

/-! ## The end of a run -/

/-- Leaving a run touches `busy`, the run record and the session fault only (60 R402). -/
theorem State.leaveRun_frame (s : State) :
    s.leaveRun = { s with
      busy := false
      run := .idle
      sessionFault := s.leaveRun.sessionFault
      faultCode := s.leaveRun.faultCode
      faultInfo := s.leaveRun.faultInfo } := by
  obtain ⟨-, e⟩ | ⟨-, e⟩ := s.leaveRun_cases <;> rw [e]

/-! ## RAM -/

theorem Move.keeps_memoryInv {s t : State} (h : Move s t) (hs : s.MemoryInv) : t.MemoryInv := by
  cases h with
  | control h => exact (congrArg Memory.wf h.mem).trans hs
  | ram v ha => exact Memory.wf_write v hs ha
  | startup => exact (congrArg Memory.wf (s.startup_mem _)).trans Memory.wf_atReset
  | leaveRun => rw [State.leaveRun_frame]; exact hs
  | psg | mfp | dma | dmaSample | malloc | unload | store => exact hs

/-- Settles O55: of the moves, only a byte written inside RAM and Startup touch RAM. -/
theorem stepKeepsMemoryCanonical : Obligations.StepKeepsMemoryCanonical := fun _ _ hs h =>
  (step_moves h).keeps (fun _ _ => Move.keeps_memoryInv) hs

/-! ## The PSG -/

theorem Move.keeps_psgInv {s t : State} (h : Move s t) (hs : s.PsgInv) : t.PsgInv := by
  obtain ⟨hrate, hpsg⟩ := hs
  cases h with
  | control h => unfold State.PsgInv State.RateInv; rw [h.hostRate, h.psg]; exact ⟨hrate, hpsg⟩
  | psg h => exact ⟨hrate, h.keeps hrate.1 hpsg⟩
  | startup h => exact ⟨hrate.startup h, .resetOf (hrate.startup h).1 s.params⟩
  | leaveRun => rw [State.leaveRun_frame]; exact ⟨hrate, hpsg⟩
  | ram | mfp | dma | dmaSample | malloc | unload | store => exact ⟨hrate, hpsg⟩

/-- Settles O56: every move of the PSG keeps its invariant, and Startup resets it at a legal rate. -/
theorem stepKeepsPsgInvariant : Obligations.StepKeepsPsgInvariant := fun _ _ hs h =>
  (step_moves h).keeps (fun _ _ => Move.keeps_psgInv) hs

/-! ## The timer unit -/

theorem Move.keeps_mfpInv {s t : State} (h : Move s t) (hs : s.MfpInv) : t.MfpInv := by
  obtain ⟨hrate, hmfp⟩ := hs
  cases h with
  | control h => unfold State.MfpInv State.RateInv; rw [h.hostRate, h.mfp]; exact ⟨hrate, hmfp⟩
  | mfp h => exact ⟨hrate, h.keeps hrate.1 hmfp⟩
  | dmaSample => exact ⟨hrate, dmaSample_mfp s.hostRate s.mem s.dma hmfp⟩
  | startup h => exact ⟨hrate.startup h, .resetAll⟩
  | leaveRun => rw [State.leaveRun_frame]; exact ⟨hrate, hmfp⟩
  | ram | psg | dma | malloc | unload | store => exact ⟨hrate, hmfp⟩

/-- Settles O57: every move of the timer unit keeps its invariant, and so do the end-of-frame events that a
DMA sample sends it. -/
theorem stepKeepsTimerInvariant : Obligations.StepKeepsTimerInvariant := fun _ _ hs h =>
  (step_moves h).keeps (fun _ _ => Move.keeps_mfpInv) hs

/-! ## The DMA unit -/

/-- The DMA unit after the loop of 44 R310 does not depend on the timer unit that its events go to. -/
theorem dmaAdvance_dma (rate n : Nat) (d : Dma) (m m' : Mfp) :
    (dmaAdvance rate n d m).1 = (dmaAdvance rate n d m').1 := by
  induction n generalizing d m m' with
  | zero => rfl
  | succ n ih =>
    unfold dmaAdvance
    dsimp only
    split
    · split
      · exact ih _ _ _
      · rfl
    · exact ih _ _ _

theorem dmaSample_dma (rate : Nat) (mem : Memory) (d : Dma) (m m' : Mfp) :
    (dmaSample rate mem d m).1.1 = (dmaSample rate mem d m').1.1 := by
  unfold dmaSample
  split
  · exact dmaAdvance_dma _ _ _ m m'
  · rfl

/-- Producing a sample keeps the DMA unit legal, whatever the timer unit holds. -/
theorem Dma.Inv.sample {rate : Nat} (hr : 1 ≤ rate) (mem : Memory) {d : Dma} (m : Mfp) (h : d.Inv rate) :
    (dmaSample rate mem d m).1.1.Inv rate := by
  rw [dmaSample_dma rate mem d m Mfp.resetAll]
  exact (dmaSample_keeps hr mem h (Mfp.Inv.resetAll (rate := rate))).1

theorem Move.keeps_dmaInv {s t : State} (h : Move s t) (hs : s.DmaInv) : t.DmaInv := by
  obtain ⟨hrate, hdma⟩ := hs
  cases h with
  | control h => unfold State.DmaInv State.RateInv; rw [h.hostRate, h.dma]; exact ⟨hrate, hdma⟩
  | dma h => exact ⟨hrate, h.keeps hrate.1 hdma⟩
  | dmaSample => exact ⟨hrate, hdma.sample hrate.1 s.mem s.mfp⟩
  | startup h => exact ⟨hrate.startup h, .resetAll (hrate.startup h).1⟩
  | leaveRun => rw [State.leaveRun_frame]; exact ⟨hrate, hdma⟩
  | ram | psg | mfp | malloc | unload | store => exact ⟨hrate, hdma⟩

/-- Settles O58: a register write, a reset and a sample keep the invariant of the DMA unit. -/
theorem stepKeepsDmaInvariant : Obligations.StepKeepsDmaInvariant := fun _ _ hs h =>
  (step_moves h).keeps (fun _ _ => Move.keeps_dmaInv) hs

/-! ## The session -/

theorem Move.params_eq {s t : State} (h : Move s t) : t.params = s.params := by
  cases h with
  | control h => exact h.params
  | leaveRun => rw [State.leaveRun_frame]
  | ram | psg | mfp | dma | dmaSample | malloc | startup | unload | store => rfl

theorem State.startup_bump (s : State) (rate : Nat) : (s.startup rate).bump = BitVec.ofNat 24 Config.bumpBase := rfl

/-- An allocation that ends inside RAM moves the bump pointer without wrapping. -/
theorem bump_add_toNat {b : BitVec 24} {n : Nat} (h : b.toNat + n ≤ Config.ramSize) :
    (b + BitVec.ofNat 24 n).toNat = b.toNat + n := by
  rw [ramSize_eq] at h
  rw [BitVec.toNat_add, BitVec.toNat_ofNat]
  omega

theorem Move.keeps_bumpInv {s t : State} (h : Move s t) (hs : s.BumpInv) : t.BumpInv := by
  cases h with
  | control h => unfold State.BumpInv; rw [h.bump]; exact hs
  | malloc h4 hle =>
    obtain ⟨hbase, -, hmod⟩ := hs
    unfold State.BumpInv
    rw [bump_add_toNat hle]
    exact ⟨by omega, hle, by omega⟩
  | startup => unfold State.BumpInv; rw [State.startup_bump]; decide
  | leaveRun => rw [State.leaveRun_frame]; exact hs
  | ram | psg | mfp | dma | dmaSample | unload | store => exact hs

theorem Move.keeps_faultInv {s t : State} (h : Move s t) (hs : s.FaultInv) : t.FaultInv := by
  cases h with
  | control h => unfold State.FaultInv; rw [h.sessionFault, h.faultCode]; exact hs
  | startup => exact ⟨rfl, fun _ => rfl⟩
  | leaveRun =>
    obtain ⟨hfatal, e⟩ | ⟨-, e⟩ := s.leaveRun_cases <;> rw [e]
    · exact ⟨hfatal.symm, nofun⟩
    · exact hs
  | ram | psg | mfp | dma | dmaSample | malloc | unload | store => exact hs

theorem SongModule.acceptable_iff (m : SongModule) :
    m.acceptable = true ↔ m.headerOk = true ∧ 1 ≤ m.subsongCount ∧ m.subsongCount ≤ 128 ∧ m.tickRate ≠ 0 ∧
      m.duration.length = m.subsongCount := by
  simp [SongModule.acceptable, and_assoc]

theorem Move.keeps_loadedInv {s t : State} (h : Move s t) (hs : s.LoadedInv) : t.LoadedInv := by
  cases h with
  | control h =>
    unfold State.LoadedInv
    rw [h.loaded, h.subsongCount, h.duration, h.tickRate]
    exact hs
  | unload => exact nofun
  | store h secs =>
    obtain ⟨-, hmin, hmax, htick, hdur⟩ := (SongModule.acceptable_iff _).1 h
    exact fun _ => ⟨hmin, hmax, hdur, Nat.pos_of_ne_zero htick⟩
  | leaveRun => rw [State.leaveRun_frame]; exact hs
  | ram | psg | mfp | dma | dmaSample | malloc | startup => exact hs

/-- Settles O59: Malloc stays inside RAM, the end of a run records the fatal exit it ended with, and Load
keeps acceptable modules only. -/
theorem stepKeepsSession : Obligations.StepKeepsSession := fun s _ h =>
  have hm := step_moves h
  ⟨hm.keeps (P := fun u => u.params = s.params) (fun _ _ hu hs => hu.params_eq.trans hs) rfl,
    hm.keeps fun _ _ => Move.keeps_bumpInv,
    hm.keeps fun _ _ => Move.keeps_faultInv,
    hm.keeps fun _ _ => Move.keeps_loadedInv⟩

end Sys2Proof.Machine
end

section
/-! The bus (20_memory) and the decoder's rows for it. A bus word is the row of its address
(`decode_readByte` and its like), that row performs the bus primitive there (`exec_readByteRow` and its
like), and the address map is written once in the spec's numbers (`regionOf_eq`). -/

namespace Sys2Proof.Machine

open Sys2Proof

/-! ## Performing a word -/

theorem performWord_ok {w : TxWord} {i : Instr} (h : decode w = .ok i) (s : State) : performWord w s = exec i s := by
  unfold performWord
  rw [h]

theorem performWord_error {w : TxWord} {e : DecodeError} (h : decode w = .error e) (s : State) :
    performWord w s = .refused .reservedWord := by
  unfold performWord
  rw [h]

theorem step_word {s : State} {w : TxWord} {rest : List Input} (h : s.inputs = .word w :: rest) :
    step s = performWord w { s with inputs := rest } := by
  unfold step
  rw [h]

theorem step_agentWord {s : State} {w : TxWord} {rest : List Input} (h : s.inputs = .agentWord w :: rest) :
    step s = if s.busy then performWord w { s with inputs := rest } else .refused .callbackOutsideRun := by
  unfold step
  rw [h]

theorem step_agentReturn {s : State} {c : Nat} {rest : List Input} (h : s.inputs = .agentReturn c :: rest) :
    step s = State.agentReturn { s with inputs := rest } c := by
  unfold step
  rw [h]

/-- Settles O2: `step` hands a word to `performWord`, the CPU agent's only inside a run. -/
theorem stepPerformsDecodedWord : Obligations.StepPerformsDecodedWord := by
  intro s w rest
  refine ⟨fun i hi => ⟨fun h => ?_, fun h hb => ?_⟩, fun hb => ⟨fun h => ?_, fun c h => ?_⟩⟩
  · rw [step_word h, performWord_ok hi]
  · rw [step_agentWord h, hb, if_pos rfl, performWord_ok hi]
  · rw [step_agentWord h, hb]
    rfl
  · rw [step_agentReturn h]
    unfold State.agentReturn
    rw [if_pos (by rw [hb]; rfl)]

/-! ## The decoder by class of word -/

theorem decode_read {w : TxWord} (h : clsField w = 0) :
    decode w = (busOpOf false (szField w) (dataField w)).bind fun op => decodeBus op (addrField w) := by
  unfold decode
  rw [if_pos h]
  cases busOpOf false (szField w) (dataField w) <;> rfl

theorem decode_write {w : TxWord} (h : clsField w = 1) :
    decode w = (busOpOf true (szField w) (dataField w)).bind fun op => decodeBus op (addrField w) := by
  unfold decode
  rw [h, if_neg (by decide), if_pos rfl]
  cases busOpOf true (szField w) (dataField w) <;> rfl

theorem decode_command {w : TxWord} (h : clsField w = 2) :
    decode w = if reservedHigh w ≠ 0 ∨ reservedLow w ≠ 0 then .error .reservedField
      else commandRow (codeField w) (argField w) := by
  unfold decode
  rw [h, if_neg (by decide), if_neg (by decide), if_pos rfl]

theorem decode_callback {w : TxWord} (h : clsField w = 3) :
    decode w = if reservedHigh w ≠ 0 ∨ reservedLow w ≠ 0 then .error .reservedField
      else callbackRow (codeField w) (argField w) := by
  unfold decode
  rw [h, if_neg (by decide), if_neg (by decide), if_neg (show (3 : BitVec 2) ≠ 2 by decide)]

theorem clsField_cases (w : TxWord) : clsField w = 0 ∨ clsField w = 1 ∨ clsField w = 2 ∨ clsField w = 3 := by
  generalize clsField w = c
  revert c
  decide

/-! ## Bus words and their transactions -/

theorem decode_busWord_read {sz : BitVec 2} {data : Long} {op : BusOp} (h : busOpOf false sz data = .ok op)
    (addr : WideAddr) : decode (busWord 0 sz addr data) = decodeBus op addr := by
  rw [decode_read (busWord_cls 0 sz addr data), busWord_sz, busWord_data, busWord_addr, h]
  rfl

theorem decode_busWord_write {sz : BitVec 2} {data : Long} {op : BusOp} (h : busOpOf true sz data = .ok op)
    (addr : WideAddr) : decode (busWord 1 sz addr data) = decodeBus op addr := by
  rw [decode_write (busWord_cls 1 sz addr data), busWord_sz, busWord_data, busWord_addr, h]
  rfl

/-- A value is read back from a wider field it is stored in. -/
theorem setWidth_lowBits {n m : Nat} (v : BitVec n) (h : n ≤ m) : (v.setWidth m).extractLsb' 0 n = v :=
  (BitVec.extractLsb'_setWidth_of_le (by omega)).trans (field_whole v)

theorem busOpOf_writeByte (v : Byte) : busOpOf true 0 (v.setWidth 32) = .ok (.writeByte v) :=
  congrArg (fun x => Except.ok (BusOp.writeByte x)) (setWidth_lowBits v (by decide))

theorem busOpOf_writeWord (v : Half) : busOpOf true 1 (v.setWidth 32) = .ok (.writeWord v) :=
  congrArg (fun x => Except.ok (BusOp.writeWord x)) (setWidth_lowBits v (by decide))

/-- The word of a transaction is decoded as that transaction (30 R100). -/
theorem decode_encodeBus (op : BusOp) (addr : WideAddr) : decode (encodeBus op addr) = decodeBus op addr := by
  cases op with
  | readByte => exact decode_busWord_read rfl addr
  | readWord => exact decode_busWord_read rfl addr
  | readLong => exact decode_busWord_read rfl addr
  | writeByte v => exact decode_busWord_write (busOpOf_writeByte v) addr
  | writeWord v => exact decode_busWord_write (busOpOf_writeWord v) addr
  | writeLong v => exact decode_busWord_write rfl addr

/-- Below bit 24 an aligned transaction is the row of its address (30 R103). -/
theorem decodeBus_narrow {op : BusOp} {a : Addr} (h : op.alignedAt (a.setWidth 28) = true) :
    decodeBus op (a.setWidth 28) = .ok (busRow op a) := by
  have high : ∀ k, 24 ≤ k → (a.setWidth 28 : WideAddr).getLsbD k = false := fun k hk => by
    rw [BitVec.getLsbD_setWidth, BitVec.getLsbD_of_ge a k hk, Bool.and_false]
  have low : (a.setWidth 28 : WideAddr).extractLsb' 0 24 = a := setWidth_lowBits a (by decide)
  unfold decodeBus
  rw [h, high 24 (by decide), high 25 (by decide), high 26 (by decide), high 27 (by decide), low]
  rfl

theorem alignedAt_even (op : BusOp) {a : Addr} (ha : a.getLsbD 0 = false) : op.alignedAt (a.setWidth 28) = true := by
  unfold BusOp.alignedAt
  split
  · rfl
  · rfl
  · rw [setWidth_bit0, ha]
    rfl

theorem decode_readByte (a : Addr) (d : Long) : decode (busWord 0 0 (a.setWidth 28) d) = .ok (readByteRow a) :=
  (decode_busWord_read rfl _).trans (decodeBus_narrow rfl)

theorem decode_readWord {a : Addr} (ha : a.getLsbD 0 = false) (d : Long) :
    decode (busWord 0 1 (a.setWidth 28) d) = .ok (readWordRow a) :=
  (decode_busWord_read rfl _).trans (decodeBus_narrow (alignedAt_even _ ha))

theorem decode_writeByte (a : Addr) (d : Long) :
    decode (busWord 1 0 (a.setWidth 28) d) = .ok (writeByteRow a (d.extractLsb' 0 8)) :=
  (decode_busWord_write rfl _).trans (decodeBus_narrow rfl)

theorem decode_writeWord {a : Addr} (ha : a.getLsbD 0 = false) (d : Long) :
    decode (busWord 1 1 (a.setWidth 28) d) = .ok (writeWordRow a (d.extractLsb' 0 16)) :=
  (decode_busWord_write rfl _).trans (decodeBus_narrow (alignedAt_even _ ha))

/-! ## The address map -/

/-- The low bits of an address are its distance from a base they do not reach into. -/
theorem lowBits_eq_ofNat_sub {n base : Nat} (a : Addr) (hb : 2 ^ n ∣ base) (h : base ≤ a.toNat) :
    a.extractLsb' 0 n = BitVec.ofNat n (a.toNat - base) := by
  obtain ⟨k, rfl⟩ := hb
  apply BitVec.eq_of_toNat_eq
  rw [BitVec.extractLsb'_toNat, Nat.shiftRight_zero, BitVec.toNat_ofNat, Nat.sub_mul_mod h]

/-- The address map in the spec's numbers (20 R72, R73). -/
theorem regionOf_eq (a : Addr) : regionOf a =
    if a.toNat < 0x400000 then .ram (BitVec.ofNat 22 a.toNat)
    else if 0xFF8800 ≤ a.toNat ∧ a.toNat ≤ 0xFF88FF then .psg (BitVec.ofNat 8 (a.toNat - 0xFF8800))
    else if 0xFF8900 ≤ a.toNat ∧ a.toNat ≤ 0xFF893F then .dma (BitVec.ofNat 6 (a.toNat - 0xFF8900))
    else if 0xFFFA00 ≤ a.toNat ∧ a.toNat ≤ 0xFFFA3F then .mfp (BitVec.ofNat 6 (a.toNat - 0xFFFA00))
    else .unmapped := by
  unfold regionOf
  refine ite_congr rfl (fun _ => ?_) fun _ => ite_congr ?_ (fun h => ?_) fun _ => ite_congr ?_ (fun h => ?_) fun _ =>
    ite_congr ?_ (fun h => ?_) fun _ => rfl
  · rw [lowBits_eq_ofNat_sub (base := 0) a (by decide) (Nat.zero_le _), Nat.sub_zero]
  · exact propext (and_congr_right fun _ => Nat.lt_succ_iff)
  · rw [lowBits_eq_ofNat_sub a (by decide) h.1]
  · exact propext (and_congr_right fun _ => Nat.lt_succ_iff)
  · rw [lowBits_eq_ofNat_sub a (by decide) h.1]
  · exact propext (and_congr_right fun _ => Nat.lt_succ_iff)
  · rw [lowBits_eq_ofNat_sub a (by decide) h.1]

theorem toNat_ofNat_ram {x : Nat} (h : x < 0x400000) : (BitVec.ofNat 22 x).toNat = x := by
  rw [BitVec.toNat_ofNat, Nat.mod_eq_of_lt h]

theorem toNat_of_regionOf_ram {a : Addr} {x : BitVec 22} (h : regionOf a = .ram x) : x.toNat = a.toNat := by
  rw [regionOf_eq] at h
  split_ifs at h with hram
  cases h
  exact toNat_ofNat_ram hram

/-- The RAM address or window offset in a region is even; an unmapped address has neither. -/
def regionEven : Region → Bool
  | .ram x => !x.getLsbD 0
  | .psg off => !off.getLsbD 0
  | .dma off => !off.getLsbD 0
  | .mfp off => !off.getLsbD 0
  | .unmapped => true

theorem regionEven_regionOf {a : Addr} (ha : a.getLsbD 0 = false) : regionEven (regionOf a) = true := by
  unfold regionOf
  have even : ∀ n, (!(a.extractLsb' 0 n).getLsbD 0) = true := fun n => by
    rw [BitVec.getLsbD_extractLsb', Nat.zero_add, ha, Bool.and_false]
    rfl
  split_ifs
  · exact even 22
  · exact even 8
  · exact even 6
  · exact even 6
  · rfl

/-! ## The rows perform the bus primitives -/

theorem exec_dmaWriteRow (b : Byte) (r : DmaReg) (s : State) :
    exec (dmaWriteRow b r) s = .next (s.withDma (s.dma.write r b)) := by
  cases r <;> rfl

theorem exec_mfpWriteRow (b : Byte) (r : MfpReg) (s : State) :
    exec (mfpWriteRow b r) s = .next (s.withMfp (s.mfp.write r b)) := by
  cases r <;> rfl

theorem exec_readByteRow (a : Addr) (s : State) : exec (readByteRow a) s = .next (s.withBus (.byte (s.memRead8 a))) := by
  unfold readByteRow State.memRead8
  cases regionOf a <;> rfl

theorem exec_readWordRow (a : Addr) (s : State) : exec (readWordRow a) s = .next (s.withBus (.word (s.memRead16 a))) := by
  unfold readWordRow State.memRead16
  cases regionOf a <;> rfl

theorem exec_writeByteRow (a : Addr) (v : Byte) (s : State) : exec (writeByteRow a v) s = .next (s.memWrite8 a v) := by
  unfold writeByteRow State.memWrite8
  cases regionOf a with
  | ram x => rfl
  | psg off =>
    simp only [Psg.write8]
    split_ifs <;> rfl
  | dma off =>
    simp only [Dma.write8]
    cases DmaReg.ofOffset off with
    | none => rfl
    | some r => exact exec_dmaWriteRow v r s
  | mfp off =>
    simp only [Mfp.write8]
    cases MfpReg.ofOffset off with
    | none => rfl
    | some r => exact exec_mfpWriteRow v r s
  | unmapped => rfl

theorem exec_writeWordRow (a : Addr) (v : Half) (s : State) : exec (writeWordRow a v) s = .next (s.memWrite16 a v) := by
  unfold writeWordRow State.memWrite16
  cases regionOf a with
  | ram x => rfl
  | psg off =>
    simp only [Psg.write8]
    split_ifs <;> rfl
  | dma off =>
    simp only [Dma.write16]
    split_ifs with hdata hmask
    · rfl
    · rfl
    · simp only [exec, execDmaWrW, Dma.write16, if_neg hdata, if_neg hmask]
  | mfp off => rfl
  | unmapped => rfl

/-! ## Reads and writes by address -/

/-- Settles O6: the row of an address reads what the bus primitive reads there. -/
theorem readsByAddress : Obligations.ReadsByAddress := by
  intro s a d
  refine ⟨?_, fun ha => ?_⟩
  · rw [performWord_ok (decode_readByte a d), exec_readByteRow]
    unfold State.memRead8
    rw [regionOf_eq]
    split_ifs with h
    · simp only [toNat_ofNat_ram h]
      rfl
    all_goals rfl
  · rw [performWord_ok (decode_readWord ha d), exec_readWordRow]
    unfold State.memRead16
    rw [regionOf_eq]
    split_ifs with h
    · simp only [toNat_ofNat_ram h]
      rfl
    all_goals rfl

theorem hiByte_low16 (d : Long) : hiByte (d.extractLsb' 0 16) = d.extractLsb' 8 8 :=
  BitVec.extractLsb'_extractLsb'_of_le (by decide)

theorem loByte_low16 (d : Long) : loByte (d.extractLsb' 0 16) = d.extractLsb' 0 8 :=
  BitVec.extractLsb'_extractLsb'_of_le (by decide)

/-- Settles O7: the row of an address writes what the bus primitive writes there. -/
theorem writesByAddress : Obligations.WritesByAddress := by
  intro s a d
  refine ⟨?_, fun ha => ?_⟩
  · rw [performWord_ok (decode_writeByte a d), exec_writeByteRow]
    unfold State.memWrite8
    rw [regionOf_eq]
    split_ifs with h
    · simp only [toNat_ofNat_ram h]
      rfl
    all_goals rfl
  · rw [performWord_ok (decode_writeWord ha d), exec_writeWordRow]
    unfold State.memWrite16
    rw [regionOf_eq]
    split_ifs with h
    · simp only [toNat_ofNat_ram h, Memory.write16, hiByte_low16, loByte_low16]
      rfl
    · simp only [hiByte_low16]
      rfl
    all_goals rfl

/-! ## What the decoder yields -/

theorem wf_dmaWriteRow (b : Byte) (r : DmaReg) : (dmaWriteRow b r).wf = true := by cases r <;> rfl

theorem wf_mfpWriteRow (b : Byte) (r : MfpReg) : (mfpWriteRow b r).wf = true := by cases r <;> rfl

theorem wf_readByteRow (a : Addr) : (readByteRow a).wf = true := by
  unfold readByteRow
  cases h : regionOf a with
  | unmapped => exact beq_iff_eq.2 h
  | _ => rfl

theorem wf_readWordRow {a : Addr} (ha : a.getLsbD 0 = false) : (readWordRow a).wf = true := by
  have even := regionEven_regionOf ha
  unfold readWordRow
  cases h : regionOf a with
  | unmapped => simp only [Instr.wf, h, ha]; rfl
  | _ => rw [h] at even; exact even

theorem wf_writeByteRow (a : Addr) (v : Byte) : (writeByteRow a v).wf = true := by
  unfold writeByteRow
  cases h : regionOf a with
  | ram x => rfl
  | psg off =>
    dsimp only
    split_ifs with hport
    · exact hport
    · simpa [Instr.wf] using hport
  | dma off =>
    dsimp only
    cases hoff : DmaReg.ofOffset off with
    | none => exact congrArg Option.isNone hoff
    | some r => exact wf_dmaWriteRow v r
  | mfp off =>
    dsimp only
    cases hoff : MfpReg.ofOffset off with
    | none => exact congrArg Option.isNone hoff
    | some r => exact wf_mfpWriteRow v r
  | unmapped => exact beq_iff_eq.2 h

theorem wf_writeWordRow {a : Addr} (ha : a.getLsbD 0 = false) (v : Half) : (writeWordRow a v).wf = true := by
  have even := regionEven_regionOf ha
  unfold writeWordRow
  cases h : regionOf a with
  | ram x => rw [h] at even; exact even
  | psg off =>
    rw [h] at even
    dsimp only
    split_ifs with hport
    · exact Bool.and_eq_true_iff.2 ⟨hport, even⟩
    · exact Bool.and_eq_true_iff.2 ⟨by rw [Bool.eq_false_of_not_eq_true hport]; rfl, even⟩
  | dma off =>
    rw [h] at even
    dsimp only
    split_ifs with hdata hmask
    · rfl
    · rfl
    · exact Bool.and_eq_true_iff.2 ⟨Bool.and_eq_true_iff.2 ⟨even, bne_iff_ne.2 hdata⟩, bne_iff_ne.2 hmask⟩
  | mfp off => rw [h] at even; exact even
  | unmapped => simp only [Instr.wf, h, ha]; rfl

theorem wf_busRow {op : BusOp} {addr : WideAddr} (h : op.alignedAt addr = true) :
    (busRow op (addr.extractLsb' 0 24)).wf = true := by
  have even (h : (!addr.getLsbD 0) = true) : (addr.extractLsb' 0 24).getLsbD 0 = false := by
    rw [BitVec.getLsbD_extractLsb', Nat.zero_add, (Bool.not_eq_true' _).mp h, Bool.and_false]
  cases op with
  | readByte => exact wf_readByteRow _
  | readWord => exact wf_readWordRow (even h)
  | readLong => exact (Bool.not_eq_true' _).mpr (even h)
  | writeByte v => exact wf_writeByteRow _ v
  | writeWord v => exact wf_writeWordRow (even h) v
  | writeLong v => exact (Bool.not_eq_true' _).mpr (even h)

theorem wf_decodeBus {op : BusOp} {addr : WideAddr} {i : Instr} (h : decodeBus op addr = .ok i) : i.wf = true := by
  unfold decodeBus at h
  split_ifs at h with odd h24 h25 h26 h27 <;> cases h
  all_goals have aligned : op.alignedAt addr = true := by simpa using odd
  · simp [Instr.wf, violationAt, aligned, h24]
  · simpa [Instr.wf, violationAt, aligned, h25] using h24
  · simpa [Instr.wf, violationAt, aligned, h26] using And.intro h24 h25
  · simpa [Instr.wf, violationAt, aligned, h27] using And.intro (And.intro h24 h25) h26
  · exact wf_busRow aligned

theorem wf_commandRow {code : Byte} {arg : Long} {i : Instr} (h : commandRow code arg = .ok i) : i.wf = true := by
  unfold commandRow at h
  split at h <;> cases h <;> rfl

theorem wf_callbackRow {code : Byte} {arg : Long} {i : Instr} (h : callbackRow code arg = .ok i) : i.wf = true := by
  unfold callbackRow at h
  split at h <;> cases h <;> rfl

/-- Settles O4: by the class of the word, and for a bus word by the region of its address. -/
theorem decodeYieldsWellFormed : Obligations.DecodeYieldsWellFormed := by
  intro w i h
  have bus {r : Except DecodeError BusOp} (h : (r.bind fun op => decodeBus op (addrField w)) = .ok i) : i.wf = true := by
    cases r with
    | error e => cases h
    | ok op => exact wf_decodeBus h
  rcases clsField_cases w with hc | hc | hc | hc
  · exact bus ((decode_read hc).symm.trans h)
  · exact bus ((decode_write hc).symm.trans h)
  · rw [decode_command hc] at h
    split_ifs at h
    exact wf_commandRow h
  · rw [decode_callback hc] at h
    split_ifs at h
    exact wf_callbackRow h

/-! ## What the decoder rejects -/

/-- A transaction is rejected at an odd address only (20 R80). -/
theorem decodeBus_error_iff (op : BusOp) (addr : WideAddr) :
    (∃ e, decodeBus op addr = .error e) ↔ op.alignedAt addr = false := by
  unfold decodeBus
  cases op.alignedAt addr with
  | false => exact ⟨fun _ => rfl, fun _ => ⟨.oddAddress, rfl⟩⟩
  | true =>
    refine ⟨?_, nofun⟩
    rintro ⟨e, h⟩
    simp only [Bool.not_true, Bool.false_eq_true, if_false] at h
    split_ifs at h

/-- A bus word is rejected for its size or, wider than a byte, for an odd address (30 R114). -/
theorem busOp_error_iff (isWrite : Bool) (sz : BitVec 2) (data : Long) (addr : WideAddr) :
    (∃ e, ((busOpOf isWrite sz data).bind fun op => decodeBus op addr) = .error e) ↔
      sz = 3 ∨ (sz ≠ 0 ∧ addr.getLsbD 0 = true) := by
  have size : sz = 0 ∨ sz = 1 ∨ sz = 2 ∨ sz = 3 := by revert sz; decide
  rcases size with rfl | rfl | rfl | rfl
  · refine (decodeBus_error_iff _ addr).trans ?_
    cases isWrite <;> simp [BusOp.alignedAt]
  · refine (decodeBus_error_iff _ addr).trans ?_
    cases isWrite <;> simp [BusOp.alignedAt]
  · refine (decodeBus_error_iff _ addr).trans ?_
    cases isWrite <;> simp [BusOp.alignedAt]
  · exact ⟨fun _ => .inl rfl, fun _ => ⟨.reservedSize, rfl⟩⟩

theorem commandRow_error_iff (code : Byte) (arg : Long) :
    (∃ e, commandRow code arg = .error e) ↔ code.toNat ∉ listedCommands := by
  unfold commandRow
  split <;> simp_all [listedCommands]

theorem callbackRow_error_iff (code : Byte) (arg : Long) :
    (∃ e, callbackRow code arg = .error e) ↔ code.toNat ∉ listedCallbacks := by
  unfold callbackRow
  split <;> simp_all [listedCallbacks]

/-- A command or callback word is rejected for a reserved field or for its code (30 R114). -/
theorem codeWord_error_iff {w : TxWord} {r : Except DecodeError Instr} {listed : List Nat}
    (h : (∃ e, r = .error e) ↔ (codeField w).toNat ∉ listed) :
    (∃ e, (if reservedHigh w ≠ 0 ∨ reservedLow w ≠ 0 then .error .reservedField else r) = .error e) ↔
      ReservedCode listed w := by
  have or_assoc_fields : ReservedCode listed w ↔ (reservedHigh w ≠ 0 ∨ reservedLow w ≠ 0) ∨ (codeField w).toNat ∉ listed :=
    or_assoc.symm
  rw [or_assoc_fields, ← h]
  split_ifs with hf
  · exact ⟨fun _ => .inl hf, fun _ => ⟨_, rfl⟩⟩
  · exact (or_iff_right hf).symm

theorem decode_error_iff (w : TxWord) : (∃ e, decode w = .error e) ↔ Reserved w := by
  have bus (isWrite : Bool) :
      (∃ e, ((busOpOf isWrite (szField w) (dataField w)).bind fun op => decodeBus op (addrField w)) = .error e) ↔
        ReservedBus w := by
    rw [busOp_error_iff, show (addrField w).getLsbD 0 = w.getLsbD 32 by simp [addrField]]
    rfl
  unfold Reserved
  rcases clsField_cases w with hc | hc | hc | hc <;> rw [show w.extractLsb' 62 2 = _ from hc]
  · rw [decode_read hc]
    exact bus false
  · rw [decode_write hc]
    exact bus true
  · rw [decode_command hc]
    exact codeWord_error_iff (commandRow_error_iff _ _)
  · rw [decode_callback hc]
    exact codeWord_error_iff (callbackRow_error_iff _ _)

/-- Settles O5: by the class of the word. -/
theorem reservedWordsHaveNoStep : Obligations.ReservedWordsHaveNoStep := by
  intro s w rest
  refine ⟨decode_error_iff w, fun h hr => ?_, fun cls sz addr data hc => ?_⟩
  · obtain ⟨e, he⟩ := (decode_error_iff w).2 hr
    rw [step_word h, performWord_error he]
  · rw [reserved_bus cls sz addr data hc]
    refine ⟨fun hs ha => .inr ⟨?_, ha⟩, ?_⟩
    · rcases hs with rfl | rfl <;> decide
    · rintro rfl (h | ⟨h, -⟩)
      · exact absurd h (by decide)
      · exact h rfl

/-! ## Address violations -/

/-- Raising a condition, in both cases at once: the first one of a run stands (60 R400). -/
theorem State.raise_eq (s : State) (c : ExitCode) (info : Long) : s.raise c info =
    { s with exit := if s.exit = .none then c else s.exit, exitInfo := if s.exit = .none then info else s.exitInfo } := by
  obtain ⟨h, e⟩ | ⟨h, e⟩ := s.raise_cases c info <;> simp only [e, h, if_true, if_false]

theorem State.violation_eq (s : State) (addr : Nat) (b : BusData) : s.violation addr b =
    { s with
      exit := if s.exit = .none then .addressViolation else s.exit
      exitInfo := if s.exit = .none then BitVec.ofNat 32 addr else s.exitInfo
      out := { s.out with bus := b } } := by
  unfold State.violation
  rw [State.raise_eq]

theorem extractLsb'_high_eq_zero {addr : WideAddr} (h24 : addr.getLsbD 24 = false) (h25 : addr.getLsbD 25 = false)
    (h26 : addr.getLsbD 26 = false) (h27 : addr.getLsbD 27 = false) : addr.extractLsb' 24 4 = 0 := by
  apply BitVec.eq_of_getLsbD_eq
  intro i hi
  have four : i = 0 ∨ i = 1 ∨ i = 2 ∨ i = 3 := by omega
  rw [BitVec.getLsbD_extractLsb']
  rcases four with rfl | rfl | rfl | rfl <;> simp only [h24, h25, h26, h27, Bool.and_false] <;> rfl

/-- Settles O9: each of the four rows is the violation of its address. -/
theorem addressViolationRows : Obligations.AddressViolationRows := by
  intro s op addr t
  have violated : Host.Outcome.next (s.violation addr.toNat (violationAnswer op s.out.bus)) =
      (.next t : Host.Outcome State Fault Refusal) := by
    rw [State.violation_eq, BitVec.ofNat_toNat]
    rfl
  refine ⟨violated, violated, violated, violated, fun aligned high => ?_⟩
  have row : ∃ i, decodeBus op addr = .ok i ∧ exec i s = .next (s.violation addr.toNat (violationAnswer op s.out.bus)) := by
    unfold decodeBus
    rw [aligned]
    split_ifs with h h24 h25 h26 h27
    · cases h
    · exact ⟨_, rfl, rfl⟩
    · exact ⟨_, rfl, rfl⟩
    · exact ⟨_, rfl, rfl⟩
    · exact ⟨_, rfl, rfl⟩
    · simp only [Bool.not_eq_true] at h24 h25 h26 h27
      exact absurd (extractLsb'_high_eq_zero h24 h25 h26 h27) high
  obtain ⟨i, hi, he⟩ := row
  rw [performWord_ok ((decode_encodeBus op addr).trans hi), he, violated]

/-! ## Long accesses -/

theorem longLeavesSpace_eq_false {a : Addr} (h : a.toNat + 2 < 2 ^ 24) : longLeavesSpace a = false :=
  decide_eq_false (Nat.not_le.2 h)

theorem toNat_add_two {a : Addr} (h : a.toNat + 2 < 2 ^ 24) : (a + 2).toNat = a.toNat + 2 := by
  rw [BitVec.toNat_add]
  exact Nat.mod_eq_of_lt h

theorem exec_busRdL_inside {a : Addr} (h : a.toNat + 2 < 2 ^ 24) (s : State) :
    exec (.busRdL a) s = .next (s.withBus (.long (s.memRead16 a ++ s.memRead16 (a + 2)))) := by
  show execBusRdL a s = _
  unfold execBusRdL
  rw [longLeavesSpace_eq_false h]
  rfl

theorem exec_busWrL_inside {a : Addr} (h : a.toNat + 2 < 2 ^ 24) (v : Long) (s : State) :
    exec (.busWrL a v) s = .next (s.memWrite32 a v) := by
  show execBusWrL a v s = _
  unfold execBusWrL
  rw [longLeavesSpace_eq_false h]
  rfl

theorem exec_busWrL_outside {a : Addr} (h : ¬ a.toNat + 2 < 2 ^ 24) (v : Long) (s : State) :
    exec (.busWrL a v) s = .next (s.violation (a.toNat + 2) s.out.bus) := by
  show execBusWrL a v s = _
  unfold execBusWrL
  rw [show longLeavesSpace a = true from decide_eq_true (Nat.not_lt.1 h)]
  rfl

theorem hiHalf_eq_shift (v : Long) : (v >>> 16).extractLsb' 0 16 = hiHalf v := by
  apply BitVec.eq_of_getLsbD_eq
  intro i hi
  simp [hiHalf, hi]

/-- Settles O8: each half goes through the row of its own address. -/
theorem longAccessIsTwoWordAccesses : Obligations.LongAccessIsTwoWordAccesses := by
  intro s a v
  refine ⟨fun ha hin => ⟨?_, ?_⟩, fun hexit => ⟨?_, ?_⟩⟩
  · exact ⟨_, _, _, _, decode_readWord ha 0, decode_readWord (even_add_two ha) 0, exec_readWordRow a s,
      exec_readWordRow (a + 2) s, exec_busRdL_inside hin s⟩
  · refine ⟨_, _, _, _, decode_writeWord ha (v >>> 16), decode_writeWord (even_add_two ha) v, exec_writeWordRow _ _ s,
      exec_writeWordRow _ _ _, ?_⟩
    rw [exec_busWrL_inside hin, hiHalf_eq_shift]
    rfl
  · show Host.Outcome.next (s.violation 0x1000000 (.long 0xFFFFFFFF)) = _
    simp only [State.violation_eq, hexit, if_true]
    rfl
  · show Host.Outcome.next (s.violation 0x1000000 s.out.bus) = _
    simp only [State.violation_eq, hexit, if_true]
    rfl

/-! ## Unmapped addresses -/

/-- The gaps between the regions (20 R72). -/
def inGap (x : Nat) : Prop :=
  (0x400000 ≤ x ∧ x ≤ 0xFF87FF) ∨ (0xFF8940 ≤ x ∧ x ≤ 0xFFF9FF) ∨ (0xFFFA40 ≤ x ∧ x ≤ 0xFFFFFF)

theorem regionOf_gap {a : Addr} (h : inGap a.toNat) : regionOf a = .unmapped := by
  unfold inGap at h
  rw [regionOf_eq, if_neg (by omega), if_neg (by omega), if_neg (by omega), if_neg (by omega)]

theorem State.memRead16_gap {a : Addr} (h : inGap a.toNat) (s : State) : s.memRead16 a = 0xFFFF := by
  unfold State.memRead16
  rw [regionOf_gap h]

theorem State.memWrite16_gap {a : Addr} (h : inGap a.toNat) (v : Half) (s : State) : s.memWrite16 a v = s := by
  unfold State.memWrite16
  rw [regionOf_gap h]

/-- Settles O10: an address in a gap is in no region, and its rows answer all ones or drop. -/
theorem unmappedAccesses : Obligations.UnmappedAccesses := by
  intro s a v w d gap
  refine ⟨rfl, rfl, rfl, rfl, fun h => ⟨?_, ?_⟩, fun h ha => ⟨?_, ?_⟩, fun h h2 _ => ?_⟩
  · rw [decode_readByte, readByteRow, regionOf_gap h]
  · rw [decode_writeByte, writeByteRow, regionOf_gap h]
  · rw [decode_readWord ha, readWordRow, regionOf_gap h]
  · rw [decode_writeWord ha, writeWordRow, regionOf_gap h]
  · have hin : a.toNat + 2 < 2 ^ 24 := by
      have h2 : inGap (a.toNat + 2) := h2
      unfold inGap at h2
      omega
    have h2 : inGap (a + 2).toNat := by
      rw [toNat_add_two hin]
      exact h2
    refine ⟨?_, ?_⟩
    · rw [exec_busRdL_inside hin, State.memRead16_gap h, State.memRead16_gap h2]
      rfl
    · rw [exec_busWrL_inside hin, State.memWrite32, State.memWrite16_gap h, State.memWrite16_gap h2]

/-! ## Reads -/

/-- Settles O11: a read row answers on the bus; a long read is one, as long as it stays inside the space. -/
theorem busReadsChangeNothing : Obligations.BusReadsChangeNothing := by
  intro s i h
  cases i with
  | busRdL a =>
    have hin : a.toNat + 2 < 2 ^ 24 := Nat.not_le.1 (of_decide_eq_false ((Bool.not_eq_true' _).mp h))
    exact ⟨_, exec_busRdL_inside hin s⟩
  | unmappedRd size a =>
    cases size with
    | byte => exact ⟨_, rfl⟩
    | word => exact ⟨_, rfl⟩
  | ramRdB | ramRdW | psgReadB | psgReadW | dmaRdB | dmaRdW | mfpRdB | mfpRdW => exact ⟨_, rfl⟩
  | _ => cases h

/-! ## RAM stores -/

/-- A word write on the bus touches one unit or RAM. -/
theorem State.memWrite16_frame (s : State) (a : Addr) (v : Half) :
    ∃ (p : Psg) (m : Mfp) (d : Dma) (mem : Memory),
      s.memWrite16 a v = { s with psg := p, mfp := m, dma := d, mem := mem } := by
  unfold State.memWrite16
  cases regionOf a <;> exact ⟨_, _, _, _, rfl⟩

theorem State.memWrite32_frame (s : State) (a : Addr) (v : Long) :
    ∃ (p : Psg) (m : Mfp) (d : Dma) (mem : Memory),
      s.memWrite32 a v = { s with psg := p, mfp := m, dma := d, mem := mem } := by
  obtain ⟨_, _, _, _, e⟩ := s.memWrite16_frame a (hiHalf v)
  obtain ⟨_, _, _, _, e'⟩ := (s.memWrite16 a (hiHalf v)).memWrite16_frame (a + 2) (loHalf v)
  exact ⟨_, _, _, _, e'.trans (by rw [e])⟩

/-- A word write on the bus leaves every byte of RAM but the two at its address. -/
theorem State.memWrite16_read_other (s : State) (a : Addr) (v : Half) {b : Nat} (h : b < a.toNat ∨ a.toNat + 2 ≤ b) :
    (s.memWrite16 a v).mem.read b = s.mem.read b := by
  unfold State.memWrite16
  cases hreg : regionOf a with
  | ram x =>
    have e := toNat_of_regionOf_ram hreg
    exact Memory.read_write16_other _ _ (by omega) (by omega)
  | _ => rfl

theorem State.memWrite32_read_other (s : State) {a : Addr} (hin : a.toNat + 2 < 2 ^ 24) (v : Long) {b : Nat}
    (h : b < a.toNat ∨ a.toNat + 4 ≤ b) : (s.memWrite32 a v).mem.read b = s.mem.read b := by
  have e := toNat_add_two hin
  exact (State.memWrite16_read_other _ (a + 2) _ (by omega)).trans (s.memWrite16_read_other a _ (by omega))

/-- Settles O12: RAM's read-after-write laws for the byte and the word, the frame of a bus write for the long. -/
theorem ramStoresReadBack : Obligations.RamStoresReadBack := by
  intro s x v w hs
  refine ⟨⟨_, rfl, ?_, fun b => Memory.read_write_other _ v⟩,
    fun _ => ⟨_, rfl, ?_, ?_, ?_, fun b => Memory.read_write16_other _ w⟩, fun a d t _ h => ?_⟩
  · show Host.Outcome.next (State.withBus _ (.byte ((s.mem.write x.toNat v).read x.toNat))) = _
    rw [Memory.read_write_same hs]
    rfl
  · show Host.Outcome.next (State.withBus _ (.word ((s.mem.write16 x.toNat w).read16 x.toNat))) = _
    rw [Memory.read16_write16_same hs (regionOf_ram_lt x)]
    rfl
  · exact (Memory.read_write_other _ _ (Nat.ne_of_lt (Nat.lt_succ_self _))).trans (Memory.read_write_same hs _ _)
  · exact Memory.read_write_same (Memory.wf_write _ hs (regionOf_ram_lt x)) _ _
  · by_cases hin : a.toNat + 2 < 2 ^ 24
    · rw [exec_busWrL_inside hin] at h
      cases h
      refine ⟨fun b hb => s.memWrite32_read_other hin d hb, ?_⟩
      obtain ⟨_, _, _, _, e⟩ := s.memWrite32_frame a d
      rw [e]
      exact ⟨fun _ => ⟨rfl, rfl⟩, rfl, rfl, rfl, rfl, rfl, rfl, rfl, rfl, rfl, rfl, rfl, rfl, rfl, rfl, rfl⟩
    · rw [exec_busWrL_outside hin, State.violation_eq] at h
      cases h
      exact ⟨fun _ _ => rfl, fun h => absurd h hin, rfl, rfl, rfl, rfl, rfl, rfl, rfl, rfl, rfl, rfl, rfl, rfl, rfl,
        rfl, rfl⟩

/-! ## Malloc -/

theorem exec_malloc {s : State} (hb : s.busy = true) : exec (.cbGemdos 0x48) s = s.mallocCall := by
  show execCbGemdos 0x48 s = _
  unfold execCbGemdos
  rw [State.callback_running hb, if_pos rfl]

/-- An even size address with both halves inside the space is read through the bus (45 R350). -/
theorem State.mallocCall_inside {s : State} (heven : (s.cpu.a7.toNat + 2) % 2 = 0) (hin : s.cpu.a7.toNat + 2 + 2 < 2 ^ 24) :
    s.mallocCall = .next (s.malloc (s.memRead32 (BitVec.ofNat 24 (s.cpu.a7.toNat + 2)))) := by
  unfold State.mallocCall
  rw [if_neg (by omega), if_neg (by omega), if_neg (by omega)]

/-- Settles O46: by where the size stands; inside the space the long row reads the same size. -/
theorem mallocBumpsPointer : Obligations.MallocBumpsPointer := by
  intro s hb hbump a malloc violated
  have allocates (size : Long) : s.malloc size = malloc size := by
    rw [State.malloc_eq hbump.2.1, State.raise_eq]
  have raises (addr : Nat) : s.raise .addressViolation (BitVec.ofNat 32 addr) = violated addr := State.raise_eq s _ _
  rw [exec_malloc hb]
  refine ⟨fun heven hram => ?_, fun heven hin => ?_, fun hodd => ?_, fun heven hout => ?_, fun heven hin hout => ?_⟩
  · rw [State.mallocCall_inside heven (by omega), State.memRead32_ram s hram, allocates]
  · have hfit : (BitVec.ofNat 24 a).toNat = a := by
      rw [BitVec.toNat_ofNat]
      omega
    exact ⟨_, exec_busRdL_inside (by omega) s, (State.mallocCall_inside heven hin).trans (congrArg _ (allocates _))⟩
  · unfold State.mallocCall
    rw [if_pos hodd]
  · unfold State.mallocCall
    rw [if_neg (by omega), if_pos hout, raises]
  · unfold State.mallocCall
    rw [if_neg (by omega), if_neg (by omega), if_pos hout, raises]

end Sys2Proof.Machine
end

section
/-! The round trip of the encoding (30_encoding). An encoded bus word is the row of its address; an address
made from a RAM address or a window offset is that place of the map (`Located`), so its row there carries
the same operands. An encoded command or callback word is the row of its code and argument. -/

namespace Sys2Proof

open Sys2Proof.Machine

/-! ## Places of the address map -/

/-- A 28-bit address field that stays inside the 24-bit space, in the given region of it. -/
def Located (addr : WideAddr) (r : Region) : Prop := ∃ a : Addr, addr = a.setWidth 28 ∧ regionOf a = r

theorem located_ofNat {x : Nat} {r : Region} (hx : x < 2 ^ 24)
    (h : ∀ a : Addr, a.toNat = x → regionOf a = r) : Located (BitVec.ofNat 28 x) r := by
  have hlow : (BitVec.ofNat 24 x).toNat = x := Nat.mod_eq_of_lt hx
  refine ⟨BitVec.ofNat 24 x, BitVec.eq_of_toNat_eq ?_, h _ hlow⟩
  rw [BitVec.toNat_setWidth, hlow]
  rfl

theorem ofNat_add_sub_base {n : Nat} (base : Nat) (off : BitVec n) :
    BitVec.ofNat n (base + off.toNat - base) = off := by
  rw [Nat.add_sub_cancel_left, BitVec.ofNat_toNat, BitVec.setWidth_eq]

theorem located_ram (x : BitVec 22) : Located (x.setWidth 28) (.ram x) := by
  have hx : x.toNat < 0x400000 := x.isLt
  rw [← BitVec.ofNat_toNat]
  refine located_ofNat (by omega) fun a ha => ?_
  rw [regionOf_eq, ha, if_pos hx, BitVec.ofNat_toNat, BitVec.setWidth_eq]

theorem located_psg (off : BitVec 8) : Located (psgAddr off) (.psg off) := by
  have hoff : off.toNat < 0x100 := off.isLt
  refine located_ofNat (x := 0xFF8800 + off.toNat) (by omega) fun a ha => ?_
  rw [regionOf_eq, ha, if_neg (by omega), if_pos (by omega), ofNat_add_sub_base]

theorem located_dma (off : BitVec 6) : Located (dmaAddr off) (.dma off) := by
  have hoff : off.toNat < 0x40 := off.isLt
  refine located_ofNat (x := 0xFF8900 + off.toNat) (by omega) fun a ha => ?_
  rw [regionOf_eq, ha, if_neg (by omega), if_neg (by omega), if_pos (by omega), ofNat_add_sub_base]

theorem located_mfp (off : BitVec 6) : Located (mfpAddr off) (.mfp off) := by
  have hoff : off.toNat < 0x40 := off.isLt
  refine located_ofNat (x := 0xFFFA00 + off.toNat) (by omega) fun a ha => ?_
  rw [regionOf_eq, ha, if_neg (by omega), if_neg (by omega), if_neg (by omega), if_pos (by omega), ofNat_add_sub_base]

/-! ## Bus rows -/

/-- A transaction of any size may stand at an even address field (30 R102). -/
theorem alignedAt_wideEven (op : BusOp) {addr : WideAddr} (h : addr.getLsbD 0 = false) : op.alignedAt addr = true := by
  cases op <;> simp only [BusOp.alignedAt, h, Bool.not_false]

/-- Below bit 24 an encoded transaction decodes to the row of its address (30 R103). -/
theorem decode_narrow {op : BusOp} {a : Addr} (aligned : op.alignedAt (a.setWidth 28) = true) :
    decode (encodeBus op (a.setWidth 28)) = .ok (busRow op a) :=
  (decode_encodeBus op _).trans (decodeBus_narrow aligned)

/-- An encoded transaction decodes to the row that its region of the map gives it. -/
theorem decode_located {op : BusOp} {addr : WideAddr} {r : Region} {i : Instr} (place : Located addr r)
    (aligned : op.alignedAt addr = true) (row : ∀ a : Addr, regionOf a = r → busRow op a = i) :
    decode (encodeBus op addr) = .ok i := by
  obtain ⟨a, rfl, ha⟩ := place
  rw [decode_narrow aligned, row a ha]

theorem DmaReg.ofOffset_offset (r : DmaReg) : DmaReg.ofOffset r.offset = some r := by cases r <;> rfl

theorem MfpReg.ofOffset_offset (r : MfpReg) : MfpReg.ofOffset r.offset = some r := by cases r <;> rfl

/-- A byte write to a DMA register decodes to that register's row (30 R106). -/
theorem decode_encodeDma (r : DmaReg) (b : Byte) : decode (encodeDma r b) = .ok (dmaWriteRow b r) :=
  decode_located (located_dma r.offset) rfl fun a ha => by
    simp only [busRow, writeByteRow, ha, DmaReg.ofOffset_offset, Option.map_some, Option.getD_some]

/-- A byte write to a register of the timer unit decodes to that register's row (30 R105). -/
theorem decode_encodeMfp (r : MfpReg) (b : Byte) : decode (encodeMfp r b) = .ok (mfpWriteRow b r) :=
  decode_located (located_mfp r.offset) rfl fun a ha => by
    simp only [busRow, writeByteRow, ha, MfpReg.ofOffset_offset, Option.map_some, Option.getD_some]

/-- The byte of a PSG word write is read back from its lane (30 R104). -/
theorem psgLane_high (b : Byte) : (psgLane b).extractLsb' 8 8 = b :=
  (field_above b 0 8 (by decide)).trans (field_whole b)

/-! ## Command and callback rows -/

theorem decode_commandWord (code : Byte) (arg : Long) : decode (commandWord 2 code arg) = commandRow code arg := by
  rw [decode_command (commandWord_cls 2 code arg), commandWord_reservedHigh, commandWord_reservedLow, commandWord_code,
    commandWord_arg, if_neg (by simp)]

theorem decode_callbackWord (code : Byte) (arg : Long) : decode (commandWord 3 code arg) = callbackRow code arg := by
  rw [decode_callback (commandWord_cls 3 code arg), commandWord_reservedHigh, commandWord_reservedLow, commandWord_code,
    commandWord_arg, if_neg (by simp)]

/-- Index and value of a register write are read back from its argument. -/
theorem psgWriteRegister_arg (index value : Byte) :
    commandRow 0x10 ((0 : Half) ++ index ++ value) = .ok (.cmdPsgWriteRegister index value) := by
  have hindex : ((0 : Half) ++ index ++ value).extractLsb' 8 8 = index := by
    rw [field_above _ _ _ (by decide), field_below _ _ _ (by decide)]
    exact field_whole index
  have hvalue : ((0 : Half) ++ index ++ value).extractLsb' 0 8 = value := by
    rw [field_below _ _ _ (by decide)]
    exact field_whole value
  show Except.ok (Instr.cmdPsgWriteRegister _ _) = _
  rw [hindex, hvalue]

/-! ## The round trip -/

/-- Settles O3: by the row. A bus row is the row of its region, a command or callback row that of its code. -/
theorem decodeEncodeRoundTrip : Obligations.DecodeEncodeRoundTrip := by
  intro i h
  cases i with
  | addrviolA24 op addr | addrviolA25 op addr | addrviolA26 op addr | addrviolA27 op addr =>
    simp only [Instr.wf, violationAt, Bool.and_eq_true, Bool.not_eq_true'] at h
    exact (decode_encodeBus op addr).trans (by
      simp only [decodeBus, h, Bool.not_true, Bool.false_eq_true, if_false, if_true])
  | busRdL a | busWrL a v => exact decode_narrow (alignedAt_even _ ((Bool.not_eq_true' _).mp h))
  | ramRdB x | ramWrB x v =>
    exact decode_located (located_ram x) rfl fun a ha => by simp only [busRow, readByteRow, writeByteRow, ha]
  | ramRdW x | ramWrW x v =>
    have heven := (setWidth_bit0 x).trans ((Bool.not_eq_true' _).mp h)
    exact decode_located (located_ram x) (alignedAt_wideEven _ heven) fun a ha => by
      simp only [busRow, readWordRow, writeWordRow, ha]
  | psgReadB off => exact decode_located (located_psg off) rfl fun a ha => by simp only [busRow, readByteRow, ha]
  | psgReadW off =>
    have heven := (psgAddr_bit0 off).trans ((Bool.not_eq_true' _).mp h)
    exact decode_located (located_psg off) (alignedAt_wideEven _ heven) fun a ha => by
      simp only [busRow, readWordRow, ha]
  | psgSelectB off b | psgDataB off b =>
    simp only [Instr.wf, Bool.not_eq_true'] at h
    exact decode_located (located_psg off) rfl fun a ha => by
      simp only [busRow, writeByteRow, ha, h, Bool.false_eq_true, if_false, if_true]
  | psgSelectW off b | psgDataW off b =>
    simp only [Instr.wf, Bool.and_eq_true, Bool.not_eq_true'] at h
    obtain ⟨hport, heven⟩ := h
    exact decode_located (located_psg off) (alignedAt_wideEven _ ((psgAddr_bit0 off).trans heven)) fun a ha => by
      simp only [busRow, writeWordRow, ha, hport, psgLane_high, Bool.false_eq_true, if_false, if_true]
  | dmaWrCtrl | dmaWrStartH | dmaWrStartM | dmaWrStartL | dmaWrEndH | dmaWrEndM | dmaWrEndL | dmaWrMode =>
    exact decode_encodeDma _ _
  | dmaWrMwdataB low b | dmaWrMwmaskB low b => cases low <;> exact decode_encodeDma _ b
  | dmaWrDropB off b =>
    have hnone : DmaReg.ofOffset off = none := Option.isNone_iff_eq_none.mp h
    exact decode_located (located_dma off) rfl fun a ha => by
      simp only [busRow, writeByteRow, ha, hnone, Option.map_none, Option.getD_none]
  | dmaWrMwdataW w | dmaWrMwmaskW w =>
    exact decode_located (located_dma _) rfl fun a ha => by simp [busRow, writeWordRow, ha]
  | dmaWrW off w =>
    simp only [Instr.wf, Bool.and_eq_true, Bool.not_eq_true', bne_iff_ne] at h
    obtain ⟨⟨heven, hdata⟩, hmask⟩ := h
    exact decode_located (located_dma off) (alignedAt_wideEven _ ((dmaAddr_bit0 off).trans heven)) fun a ha => by
      simp only [busRow, writeWordRow, ha, if_neg hdata, if_neg hmask]
  | dmaRdB off => exact decode_located (located_dma off) rfl fun a ha => by simp only [busRow, readByteRow, ha]
  | dmaRdW off =>
    have heven := (dmaAddr_bit0 off).trans ((Bool.not_eq_true' _).mp h)
    exact decode_located (located_dma off) (alignedAt_wideEven _ heven) fun a ha => by
      simp only [busRow, readWordRow, ha]
  | mfpWrGpip | mfpWrAer | mfpWrDdr | mfpWrIera | mfpWrIerb | mfpWrIpra | mfpWrIprb | mfpWrIsra | mfpWrIsrb
  | mfpWrImra | mfpWrImrb | mfpWrVr | mfpWrTacr | mfpWrTbcr | mfpWrTcdcr | mfpWrTadr | mfpWrTbdr | mfpWrTcdr
  | mfpWrTddr | mfpWrScr | mfpWrUcr | mfpWrRsr | mfpWrTsr | mfpWrUdr => exact decode_encodeMfp _ _
  | mfpWrDropB off b =>
    have hnone : MfpReg.ofOffset off = none := Option.isNone_iff_eq_none.mp h
    exact decode_located (located_mfp off) rfl fun a ha => by
      simp only [busRow, writeByteRow, ha, hnone, Option.map_none, Option.getD_none]
  | mfpRdB off => exact decode_located (located_mfp off) rfl fun a ha => by simp only [busRow, readByteRow, ha]
  | mfpRdW off | mfpWrW off w =>
    have heven := (mfpAddr_bit0 off).trans ((Bool.not_eq_true' _).mp h)
    exact decode_located (located_mfp off) (alignedAt_wideEven _ heven) fun a ha => by
      simp only [busRow, readWordRow, writeWordRow, ha]
  | unmappedRd size a =>
    cases size with
    | byte =>
      have region : regionOf a = .unmapped := beq_iff_eq.mp h
      exact (decode_narrow rfl).trans (by simp only [busRow, readByteRow, region])
    | word =>
      simp only [Instr.wf, Bool.and_eq_true, beq_iff_eq, Bool.not_eq_true'] at h
      obtain ⟨region, heven⟩ := h
      exact (decode_narrow (alignedAt_even _ heven)).trans (by simp only [busRow, readWordRow, region])
  | unmappedWr data a =>
    cases data with
    | byte v =>
      have region : regionOf a = .unmapped := beq_iff_eq.mp h
      exact (decode_narrow rfl).trans (by simp only [busRow, writeByteRow, region])
    | word v =>
      simp only [Instr.wf, Bool.and_eq_true, beq_iff_eq, Bool.not_eq_true'] at h
      obtain ⟨region, heven⟩ := h
      exact (decode_narrow (alignedAt_even _ heven)).trans (by simp only [busRow, writeWordRow, region])
  | cmdPsgWriteRegister index value => exact (decode_commandWord _ _).trans (psgWriteRegister_arg index value)
  | cmdPsgInsideTimerIrq flag => cases flag <;> exact decode_commandWord _ _
  | cmdTimerTick t | cmdTimerAcknowledge t | cmdTimerEvent t => cases t <;> exact decode_commandWord _ _
  | cmdStartup | cmdLoad | cmdGetSubsongInfo | cmdInitSubSong | cmdAudioRender | cmdRunUntilReturn
  | cmdComputeNextSample | cmdPsgTick | cmdPsgComputeNextSample | cmdPsgReset | cmdTimerReset
  | cmdDmaComputeNextSample | cmdDmaReset => exact decode_commandWord _ _
  | cbReset pc =>
    have harg := setWidth_lowBits pc (show _ ≤ 32 by decide)
    exact (decode_callbackWord _ _).trans (congrArg (Except.ok ∘ Instr.cbReset) harg)
  | cbIllegal opcode =>
    have harg := setWidth_lowBits opcode (show _ ≤ 32 by decide)
    exact (decode_callbackWord _ _).trans (congrArg (Except.ok ∘ Instr.cbIllegal) harg)
  | cbGemdos fn =>
    have harg := setWidth_lowBits fn (show _ ≤ 32 by decide)
    exact (decode_callbackWord _ _).trans (congrArg (Except.ok ∘ Instr.cbGemdos) harg)

/-- Settles O1: each of the ten words is the encoding of its row. -/
theorem decodeTableExamples : Obligations.DecodeTableExamples :=
  ⟨decodeEncodeRoundTrip (.psgSelectB 0x00 0x07) rfl,
    decodeEncodeRoundTrip (.ramWrW 0x001000 0x1234) rfl,
    decodeEncodeRoundTrip (.mfpRdW 0x1E) rfl,
    decodeEncodeRoundTrip (.busWrL 0xFF8800 0x0700FF00) rfl,
    decodeEncodeRoundTrip (.mfpWrTacr 0x07) rfl,
    decodeEncodeRoundTrip (.dmaWrCtrl 0x01) rfl,
    decodeEncodeRoundTrip (.addrviolA24 (.writeByte 0x00) 0x1000000) rfl,
    decodeEncodeRoundTrip (.unmappedRd .byte 0x400000) rfl,
    decodeEncodeRoundTrip (.cmdPsgWriteRegister 0x0D 0x0A) rfl,
    decodeEncodeRoundTrip (.cbReset 0x000500) rfl⟩

end Sys2Proof
end

section
/-! The PSG's registers and ports (40_psg_registers) and the envelope's resynchronisation (41 R166). The
index a byte names (`psgIndex_eq_some`, `psgIndex_eq_none`), the ports through `read8` and `writeData`, the
derived state of a register write field by field over `Psg.writeReg_cases`, and the envelope's position
counted in half-ticks. -/

namespace Sys2Proof.Machine

open Sys2Proof

/-! ## The register an index names (40 R131, R134) -/

theorem psgIndex_eq_some {b : Byte} {i : Fin 14} (h : b.toNat = i.val) : psgIndex b = some i := by
  unfold psgIndex
  rw [dif_pos (h ▸ i.isLt)]
  exact congrArg some (Fin.ext h)

theorem psgIndex_eq_none {b : Byte} (h : 14 ≤ b.toNat) : psgIndex b = none := by
  unfold psgIndex
  rw [dif_neg (Nat.not_lt.2 h)]

theorem Psg.writeRegister_index {index : Byte} {i : Fin 14} (h : index.toNat = i.val) (p : Psg) (v : Byte) :
    p.writeRegister index v = p.writeReg i v := by
  unfold Psg.writeRegister
  rw [psgIndex_eq_some h]

theorem Psg.writeRegister_noIndex {index : Byte} (h : 14 ≤ index.toNat) (p : Psg) (v : Byte) :
    p.writeRegister index v = p := by
  unfold Psg.writeRegister
  rw [psgIndex_eq_none h]

theorem Psg.writeRegister_sel (p : Psg) (index v : Byte) : (p.writeRegister index v).sel = p.sel := by
  unfold Psg.writeRegister
  split
  · exact p.writeReg_sel _ v
  · rfl

/-! ## The ports (40 R130 to R133) -/

theorem exec_psgDataB (off b : Byte) (s : State) : exec (.psgDataB off b) s = .next (s.withPsg (s.psg.writeData b)) := rfl

theorem exec_psgDataW (off b : Byte) (s : State) : exec (.psgDataW off b) s = .next (s.withPsg (s.psg.writeData b)) := rfl

theorem exec_psgReadB (off : Byte) (s : State) : exec (.psgReadB off) s = .next (s.withBus (.byte (s.psg.read8 off))) := rfl

theorem exec_psgReadW (off : Byte) (s : State) : exec (.psgReadW off) s = .next (s.withBus (.word (s.psg.read16 off))) := rfl

/-- A byte written to the PSG window decodes to the row of its port, on either lane (30 R104). -/
theorem decode_psgWriteByte (off b : Byte) :
    decode (encodeBus (.writeByte b) (psgAddr off)) =
      .ok (if off.getLsbD 1 = true then .psgDataB off b else .psgSelectB off b) :=
  decode_located (located_psg off) rfl fun a ha => by simp only [busRow, writeByteRow, ha]

/-- A word written to the PSG window carries its byte above, whatever stands below it (30 R104). -/
theorem decode_psgWriteWord {off : Byte} (heven : off.getLsbD 0 = false) (b low : Byte) :
    decode (encodeBus (.writeWord (b ++ low)) (psgAddr off)) =
      .ok (if off.getLsbD 1 = true then .psgDataW off b else .psgSelectW off b) := by
  have hbyte : (b ++ low : Half).extractLsb' 8 8 = b := (field_above b low 8 (by decide)).trans (field_whole b)
  exact decode_located (located_psg off) (alignedAt_wideEven _ ((psgAddr_bit0 off).trans heven)) fun a ha => by
    simp only [busRow, writeWordRow, ha, hbyte]

/-- Settles O13: the decoder by the port, the data write by the register the latch names. -/
theorem psgPortWrites : Obligations.PsgPortWrites := by
  intro s off b
  refine ⟨rfl, rfl, fun hport => ?_, fun hport heven low => ?_, fun hport => ?_, fun hport heven low => ?_, fun hsel => ?_,
    fun i hsel => ?_, s.psg.writeRegister_sel _ b⟩
  · exact (decode_psgWriteByte off b).trans (by rw [hport]; rfl)
  · exact (decode_psgWriteWord heven b low).trans (by rw [hport]; rfl)
  · exact (decode_psgWriteByte off b).trans (by rw [hport]; rfl)
  · exact (decode_psgWriteWord heven b low).trans (by rw [hport]; rfl)
  · rw [exec_psgDataB, exec_psgDataW, Psg.writeData, Psg.writeRegister_noIndex hsel]
    exact ⟨rfl, rfl⟩
  · rw [exec_psgDataB, exec_psgDataW, Psg.writeData, Psg.writeRegister_index hsel]
    exact ⟨rfl, rfl⟩

theorem Psg.read8_selected {p : Psg} {i : Fin 14} (hsel : p.sel.toNat = i.val) {off : Byte} (hport : off.getLsbD 1 = false)
    (hlane : off.getLsbD 0 = false) : p.read8 off = p.regs[i] := by
  unfold Psg.read8
  rw [hport, hlane, psgIndex_eq_some hsel]
  rfl

theorem Psg.read8_ones {p : Psg} {off : Byte} (h : 14 ≤ p.sel.toNat ∨ off.getLsbD 1 = true ∨ off.getLsbD 0 = true) :
    p.read8 off = 0xFF := by
  unfold Psg.read8
  obtain hsel | hport | hlane := h
  · rw [psgIndex_eq_none hsel]
    exact ite_self _
  · rw [hport]
    rfl
  · rw [hlane, Bool.not_true, Bool.and_false]
    rfl

/-- Settles O14: both widths read the byte that `read8` reads. -/
theorem psgReadPort : Obligations.PsgReadPort := by
  intro s off
  refine ⟨fun i hsel hport hlane => ?_, fun h => ?_⟩
  · rw [exec_psgReadB, exec_psgReadW, Psg.read16, Psg.read8_selected hsel hport hlane]
    exact ⟨rfl, rfl⟩
  · rw [exec_psgReadB, exec_psgReadW, Psg.read16, Psg.read8_ones h]
    exact ⟨rfl, rfl⟩

/-! ## The derived state of a register write (40 R135 to R137) -/

theorem toneVoice_eq_none : ∀ {i : Fin 14}, 6 ≤ i.val → toneVoice i = none := by decide

/-- A register of a voice writes that voice's tone part. -/
theorem Psg.writeReg_tone {i : Fin 14} {w : Voice} (h : toneVoice i = some w) (p : Psg) (v : Byte) :
    p.writeReg i v = (p.setReg i v).updateTone w := by
  unfold Psg.writeReg
  rw [h]

/-- The tone part of a write asks for an edge reset inside a nested call, at a period of at most 1. -/
theorem Psg.updateTone_needReset (p : Psg) (w u : Voice) :
    (p.updateTone w).needReset.get u =
      if u = w ∧ p.inside = true ∧ (tonePeriodOf p.regs w).toNat ≤ 1 then true else p.needReset.get u := by
  unfold Psg.updateTone
  dsimp only
  by_cases asks : p.inside = true ∧ (tonePeriodOf p.regs w).toNat ≤ 1
  · rw [if_pos asks]
    by_cases hu : u = w
    · rw [hu, if_pos ⟨rfl, asks⟩]
      exact PerVoice.get_set_same _ w true
    · rw [if_neg (fun h => hu h.1)]
      exact PerVoice.get_set_other _ hu true
  · rw [if_neg asks, if_neg (fun h => asks h.2)]

/-- Only a register of a voice changes the tone periods and the reset flags, and only that voice's. -/
theorem Psg.writeReg_otherVoice {i : Fin 14} {u : Voice} (h : toneVoice i ≠ some u) (p : Psg) (v : Byte) :
    (p.writeReg i v).tonePeriod.get u = p.tonePeriod.get u ∧ (p.writeReg i v).needReset.get u = p.needReset.get u := by
  obtain ⟨w, hw, e⟩ | ⟨-, -, e⟩ | ⟨-, -, e⟩ | ⟨-, -, e⟩ | ⟨-, -, e⟩ := p.writeReg_cases i v <;> rw [e]
  · have hu : u ≠ w := fun hu => h (hu ▸ hw)
    rw [Psg.updateTone_tonePeriod, Psg.updateTone_needReset, if_neg (fun h => hu h.1)]
    exact ⟨PerVoice.get_set_other _ hu _, rfl⟩
  all_goals exact ⟨rfl, rfl⟩

theorem Psg.writeReg_ownVoice {i : Fin 14} {u : Voice} (h : toneVoice i = some u) (p : Psg) (v : Byte) :
    (p.writeReg i v).tonePeriod.get u = tonePeriodOf (p.writeReg i v).regs u ∧
      (p.writeReg i v).needReset.get u =
        if p.inside = true ∧ ((p.writeReg i v).tonePeriod.get u).toNat ≤ 1 then true else p.needReset.get u := by
  rw [Psg.writeReg_tone h, Psg.updateTone_tonePeriod, Psg.updateTone_needReset, Psg.updateTone_regs,
    PerVoice.get_set_same]
  simp only [true_and]
  rfl

theorem Psg.writeReg_noTone {i : Fin 14} (h : toneVoice i = none) (p : Psg) (v : Byte) :
    (p.writeReg i v).tonePeriod = p.tonePeriod ∧ (p.writeReg i v).needReset = p.needReset :=
  have other (u : Voice) := p.writeReg_otherVoice (u := u) (by rw [h]; exact nofun) v
  ⟨PerVoice.ext_get fun u => (other u).1, PerVoice.ext_get fun u => (other u).2⟩

theorem Psg.writeReg_noNoise {i : Fin 14} (h : i ≠ 6) (p : Psg) (v : Byte) :
    (p.writeReg i v).noisePeriod = p.noisePeriod := by
  obtain ⟨w, -, e⟩ | ⟨-, hi, -⟩ | ⟨-, -, e⟩ | ⟨-, -, e⟩ | ⟨-, -, e⟩ := p.writeReg_cases i v
  · rw [e, Psg.updateTone_noisePeriod]
    rfl
  · exact absurd hi h
  all_goals
    rw [e]
    rfl

theorem Psg.writeReg_noEnvPeriod {i : Fin 14} (h11 : i ≠ 11) (h12 : i ≠ 12) (p : Psg) (v : Byte) :
    (p.writeReg i v).envPeriod = p.envPeriod := by
  obtain ⟨w, -, e⟩ | ⟨-, -, e⟩ | ⟨-, hi, -⟩ | ⟨-, -, e⟩ | ⟨-, -, e⟩ := p.writeReg_cases i v
  · rw [e, Psg.updateTone_envPeriod]
    rfl
  · rw [e]
    rfl
  · exact absurd hi (by simp [h11, h12])
  all_goals
    rw [e]
    rfl

theorem Psg.writeReg_noShape {i : Fin 14} (h : i ≠ 13) (p : Psg) (v : Byte) :
    (p.writeReg i v).envTab = p.envTab ∧ (p.writeReg i v).envPos = p.envPos ∧ (p.writeReg i v).envAlt = p.envAlt := by
  obtain ⟨hpos, halt, htab⟩ | ⟨hi, -⟩ := p.writeReg_envelope i v
  · exact ⟨htab, hpos, halt⟩
  · exact absurd hi h

/-- The mask of the shape register keeps the four bits the shape is read from. -/
theorem shapeField_masked (v : Byte) : (v &&& psgMask 13).extractLsb' 0 4 = v.extractLsb' 0 4 := by
  rw [BitVec.extractLsb'_and]
  exact BitVec.and_allOnes

/-- Every shape write selects the table and primes the envelope (40 R137). -/
theorem Psg.writeReg_shape (p : Psg) (v : Byte) :
    (p.writeReg 13 v).envTab = envSel (v.extractLsb' 0 4) ∧ (p.writeReg 13 v).envPos = -32 ∧
      (p.writeReg 13 v).envAlt = false := by
  have stored : (p.writeReg 13 v).regs[(13 : Fin 14)] = v &&& psgMask 13 := by rw [Psg.writeReg_get, if_pos rfl]
  have selected : (p.writeReg 13 v).envTab = envSel ((p.writeReg 13 v).regs[(13 : Fin 14)].extractLsb' 0 4) := rfl
  rw [stored, shapeField_masked] at selected
  exact ⟨selected, rfl, rfl⟩

/-- The mixer and the volumes have no derived state. -/
theorem Psg.writeReg_plain {i : Fin 14} (hmin : 7 ≤ i.val) (hmax : i.val ≤ 10) (p : Psg) (v : Byte) :
    p.writeReg i v = p.setReg i v := by
  obtain ⟨w, hw, -⟩ | ⟨-, rfl, -⟩ | ⟨-, rfl | rfl, -⟩ | ⟨-, rfl, -⟩ | ⟨-, -, e⟩ := p.writeReg_cases i v
  · exact absurd (hw.symm.trans (toneVoice_eq_none (Nat.le_of_succ_le hmin))) nofun
  · exact absurd hmin (by decide)
  · exact absurd hmax (by decide)
  · exact absurd hmax (by decide)
  · exact absurd hmax (by decide)
  · exact e

/-! ## The register write of a command (40 R134) -/

theorem exec_psgWriteRegister {s : State} (h : s.ready) (index v : Byte) :
    exec (.cmdPsgWriteRegister index v) s = .next ((s.withPsg (s.psg.writeRegister index v)).answer .ok .none) := by
  show execCmdPsgWriteRegister index v s = _
  unfold execCmdPsgWriteRegister
  rw [State.command_ready h]

/-- The masks of the model are the list of 40 R134. -/
theorem psgMask_eq_maskList : ∀ i : Fin 14, psgMask i = maskList.getD i.val 0 := by decide

/-- Settles O15: the frame of a register write, part by part. -/
theorem writeRegisterStoresMasked : Obligations.WriteRegisterStoresMasked := by
  intro s index v hs
  refine ⟨fun h => ?_, fun i hi => ⟨?_, fun j => ?_, ?_⟩⟩
  · rw [exec_psgWriteRegister hs, Psg.writeRegister_noIndex h]
    rfl
  · rw [exec_psgWriteRegister hs, Psg.writeRegister_index hi]
    rfl
  · rw [Psg.writeReg_get, psgMask_eq_maskList]
    simp only [eq_comm]
  · refine ⟨Psg.writeReg_sel _ i v, Psg.writeReg_toneCnt _ i v, Psg.writeReg_edge _ i v, Psg.writeReg_noiseCnt _ i v,
      Psg.writeReg_lfsr _ i v, Psg.writeReg_noiseBit _ i v, Psg.writeReg_envCnt _ i v, Psg.writeReg_half _ i v,
      Psg.writeReg_inside _ i v, Psg.writeReg_psgAcc _ i v, Psg.writeReg_level _ i v, Psg.writeReg_dcHist _ i v,
      Psg.writeReg_dcSum _ i v, Psg.writeReg_dcIdx _ i v, Psg.writeReg_voiceLvl _ i v,
      fun h => Psg.writeReg_noTone (toneVoice_eq_none h) _ v, fun h => Psg.writeReg_noNoise h _ v,
      fun h11 h12 => Psg.writeReg_noEnvPeriod h11 h12 _ v, fun h => Psg.writeReg_noShape h _ v, ?_, fun hmin hmax => ?_⟩
    · rintro rfl
      exact Psg.writeReg_shape _ v
    · rw [Psg.writeReg_plain hmin hmax]
      rfl

/-! ## The derived state, as 40 R135 numbers the voices -/

/-- Voice v is the voice of the tone registers 2k and 2k + 1. -/
def voiceNumber (v : Voice) (k : Nat) : Prop := (v = .a ∧ k = 0) ∨ (v = .b ∧ k = 1) ∨ (v = .c ∧ k = 2)

theorem toneVoice_iff {v : Voice} {k : Nat} (h : voiceNumber v k) (i : Fin 14) : toneVoice i = some v ↔ i.val / 2 = k := by
  obtain ⟨rfl, rfl⟩ | ⟨rfl, rfl⟩ | ⟨rfl, rfl⟩ := h <;> revert i <;> decide

theorem toArray_getD (regs : Vector Byte 14) (i : Fin 14) : regs.toArray.getD i.val 0 = regs[i] := by
  simp [Array.getD]

theorem tonePeriodOf_eq {v : Voice} {k : Nat} (h : voiceNumber v k) (regs : Vector Byte 14) :
    tonePeriodOf regs v = (regs.toArray.getD (2 * k + 1) 0).extractLsb' 0 4 ++ regs.toArray.getD (2 * k) 0 := by
  have coarse : 2 * k + 1 = (coarseReg v).val := by obtain ⟨rfl, rfl⟩ | ⟨rfl, rfl⟩ | ⟨rfl, rfl⟩ := h <;> rfl
  have fine : 2 * k = (fineReg v).val := by obtain ⟨rfl, rfl⟩ | ⟨rfl, rfl⟩ | ⟨rfl, rfl⟩ := h <;> rfl
  rw [coarse, fine, toArray_getD, toArray_getD]
  rfl

/-- Settles O16: each part of the derived state, at its own registers and at all the others. -/
theorem writeRegisterDerivedState : Obligations.WriteRegisterDerivedState := by
  intro p i v
  refine ⟨p.writeReg_toneCnt i v, p.writeReg_noiseCnt i v, p.writeReg_envCnt i v, p.writeReg_half i v,
    fun w k hw => ?_, ?_, ?_, ?_, fun h => Psg.writeReg_noShape h p v⟩
  · simp only [← toneVoice_iff hw i, ← tonePeriodOf_eq hw]
    by_cases own : toneVoice i = some w
    · obtain ⟨hperiod, hreset⟩ := p.writeReg_ownVoice own v
      exact ⟨fun _ => hperiod, fun h => absurd ((toneVoice_iff hw i).1 own) h, by rw [hreset]; simp only [own, true_and]⟩
    · obtain ⟨hperiod, hreset⟩ := p.writeReg_otherVoice own v
      exact ⟨fun h => absurd h own, fun _ => hperiod, by rw [hreset, if_neg (fun h => own h.1)]⟩
  · split
    · subst i
      rfl
    · exact Psg.writeReg_noNoise ‹_› p v
  · split
    · rename_i h
      obtain rfl | rfl := h <;> rfl
    · rename_i h
      obtain ⟨h11, h12⟩ := not_or.1 h
      exact Psg.writeReg_noEnvPeriod h11 h12 p v
  · rintro rfl
    exact ⟨rfl, rfl, rfl⟩

/-! ## The envelope's position from tick to tick (41 R161, R166) -/

/-- How many of the next n ticks find `half` clear: the half-ticks (41 R161). -/
def halfTicks (half : Bool) (n : Nat) : Nat := if half then n / 2 else (n + 1) / 2

theorem halfTicks_zero (half : Bool) : halfTicks half 0 = 0 := by cases half <;> rfl

theorem halfTicks_succ (half : Bool) (n : Nat) :
    halfTicks half (n + 1) = (if half = false then 1 else 0) + halfTicks (!half) n := by
  cases half with
  | false =>
    show (n + 2) / 2 = 1 + n / 2
    omega
  | true => exact (Nat.zero_add _).symm

/-- At the half cadence the envelope steps on the ticks that find `half` clear. -/
theorem Psg.tick_envPos (T : Config.Tables) {q : Config.Params} (hq : q.envCadence = .half) (p : Psg) :
    (p.tick T q).envPos = if p.half = false then (p.envStep q).envPos else p.envPos := by
  have hpos := (p.generators_envelope q).2.1
  rw [hq] at hpos
  exact hpos.trans (by cases p.half <;> rfl)

/-- At a period of at most 1 every envelope step moves the position, below the wrap by 1. -/
theorem Psg.Inv.envStep_envPos {rate : Nat} {p : Psg} (h : p.Inv rate) (q : Config.Params) (hperiod : p.envPeriod.toNat ≤ 1)
    (hpos : p.envPos < 31) : (p.envStep q).envPos = p.envPos + 1 := by
  have hcnt := h.envCnt
  have fires : atLeastOne p.envPeriod.toNat ≤ (p.envCnt + 1).toNat :=
    atLeastOne_le (by bv_omega) (by bv_omega)
  rw [(p.envStep_get q).2.1, if_pos fires, if_neg (by omega)]

/-- Below the wrap the position after n ticks has moved by the half-ticks among them. -/
theorem Psg.times_tick_envPos {rate : Nat} (T : Config.Tables) {q : Config.Params} (hq : q.envCadence = .half) (n : Nat)
    {p : Psg} (h : p.Inv rate) (hperiod : p.envPeriod.toNat ≤ 1)
    (hpos : p.envPos + halfTicks p.half n ≤ 31) :
    (times (fun p => p.tick T q) n p).envPos = p.envPos + halfTicks p.half n := by
  induction n generalizing p with
  | zero =>
    rw [halfTicks_zero]
    exact (Int.add_zero _).symm
  | succ n ih =>
    have rest := ih (h.tick T q) (by rwa [Psg.tick_envPeriod])
    rw [Psg.tick_envPos T hq, Psg.tick_half] at rest
    rw [halfTicks_succ] at hpos ⊢
    cases hhalf : p.half with
    | false =>
      rw [hhalf, if_pos rfl] at hpos rest
      rw [h.envStep_envPos q hperiod (by omega)] at rest
      exact (rest (by omega)).trans (by rw [if_pos rfl]; omega)
    | true =>
      rw [hhalf, if_neg nofun] at hpos rest
      exact (rest (by omega)).trans (by rw [if_neg nofun]; omega)

/-- Settles O22: a shape write primes the position to -32, and 32 half-ticks bring it to 0. -/
theorem envelopeResyncsInThirtyTwoSteps : Obligations.EnvelopeResyncsInThirtyTwoSteps := by
  intro T q rate p shape n h hq hperiod
  have position := Psg.times_tick_envPos T hq n (h.writeReg 13 shape) hperiod
  obtain ⟨-, primed, -⟩ := p.writeReg_shape shape
  rw [primed, Psg.writeReg_half] at position
  refine ⟨fun hp hn => ?_, fun hp hn => ?_⟩ <;> rw [hp] at position
  · exact position (by simp only [halfTicks, Bool.false_eq_true, if_false]; omega)
  · exact position (by simp only [halfTicks, if_true]; omega)

/-! ## The envelope tables (40 R140, R141) -/

theorem envTable_firstPass (e : Fin 10) {k : Nat} (hk : k < 32) :
    (envTable e k).toNat = if (envShape e).getLsbD 2 = true then k else 31 - k := by
  have hup : (BitVec.ofNat 5 k).toNat = k := Nat.mod_eq_of_lt hk
  unfold envTable
  simp only [hk, if_true]
  split
  · exact hup
  · bv_omega

theorem envTable_loop (e : Fin 10) {k : Nat} (hk : k < 32) :
    (envTable e (32 + k)).toNat =
      (let rises := (envShape e).getLsbD 2 != (envShape e).getLsbD 1
       if (envShape e).getLsbD 3 = false then 0
       else if (envShape e).getLsbD 0 = true then (if rises then 31 else 0)
       else (if rises then k else 31 - k)) := by
  have hup : (BitVec.ofNat 5 k).toNat = k := Nat.mod_eq_of_lt hk
  have hdown : (31 - BitVec.ofNat 5 k).toNat = 31 - k := by bv_omega
  unfold envTable
  simp only [show ¬ 32 + k < 32 by omega, if_false, Nat.add_sub_cancel_left, apply_ite BitVec.toNat, hup, hdown]
  cases (envShape e).getLsbD 2 <;> cases (envShape e).getLsbD 1 <;> simp

theorem envSel_val : ∀ shape : BitVec 4,
    (envSel shape).val = if shape.toNat < 4 then 0 else if shape.toNat < 8 then 1 else shape.toNat - 6 := by decide

/-- A table starts upwards as its shape does; the shapes below 8 share two tables. -/
theorem envShape_envSel_attack : ∀ shape : BitVec 4,
    (envShape (envSel shape)).getLsbD 2 = true ↔
      if shape.toNat < 4 then False else if shape.toNat < 8 then True else shape.getLsbD 2 = true := by decide

/-- The two tables of the shapes below 8 end after their first pass. -/
theorem envShape_envSel_ends : ∀ {shape : BitVec 4}, shape.toNat < 8 → (envShape (envSel shape)).getLsbD 3 = false := by
  decide

/-- The shapes from 8 on have a table each. -/
theorem envShape_envSel_self : ∀ {shape : BitVec 4}, ¬ shape.toNat < 8 → envShape (envSel shape) = shape := by decide

theorem continuingShape_cases : ∀ {shape : BitVec 4}, ¬ shape.toNat < 8 →
    shape = 8 ∨ shape = 9 ∨ shape = 10 ∨ shape = 11 ∨ shape = 12 ∨ shape = 13 ∨ shape = 14 ∨ shape = 15 := by decide

/-- Settles O17: the levels of a table by the bits of its shape, then the shapes that have a loop of their own. -/
theorem envelopeTableContents : Obligations.EnvelopeTableContents := by
  intro shape k hk
  dsimp only
  rw [envTable_firstPass _ hk, envTable_loop _ hk]
  refine ⟨envSel_val shape, fun h => if_pos ((envShape_envSel_attack shape).2 h),
    fun h => if_neg (mt (envShape_envSel_attack shape).1 h), ?_⟩
  by_cases h8 : shape.toNat < 8
  · rw [if_pos h8]
    exact if_pos (envShape_envSel_ends h8)
  · rw [if_neg h8, envShape_envSel_self h8]
    obtain rfl | rfl | rfl | rfl | rfl | rfl | rfl | rfl := continuingShape_cases h8 <;> rfl

end Sys2Proof.Machine
end

section
/-! The generators and the levels of one tick (41_psg_generators). What the tick command answers
(`exec_psgTick`), the frame of a tick, the bits of the shift register's next state, and the voices' levels
as numbers; each generator's step is then read off its law of the tick. -/

namespace Sys2Proof.Machine

open Sys2Proof

/-! ## The tick command (41 R170) -/

theorem exec_psgTick {s : State} (h : s.ready) :
    exec .cmdPsgTick s =
      .next ((s.withPsg (s.psg.tick Config.tables s.params)).answer .ok
        (.level (s.psg.tick Config.tables s.params).level)) := by
  show execCmdPsgTick s = _
  unfold execCmdPsgTick
  rw [State.command_ready h]

/-- A tick touches the generators, `half`, the level and the voices' levels only. -/
theorem Psg.tick_frame (T : Config.Tables) (q : Config.Params) (p : Psg) :
    let t := p.tick T q
    t = { p with
      toneCnt := t.toneCnt, edge := t.edge, half := !p.half, noiseCnt := t.noiseCnt, lfsr := t.lfsr,
      noiseBit := t.noiseBit, envCnt := t.envCnt, envPos := t.envPos, envAlt := t.envAlt, level := t.level,
      voiceLvl := t.voiceLvl } := by
  dsimp only
  rw [← p.tick_regs T q, ← p.tick_sel T q, ← p.tick_tonePeriod T q, ← p.tick_noisePeriod T q, ← p.tick_envPeriod T q,
    ← p.tick_envTab T q, ← p.tick_half T q, ← p.tick_inside T q, ← p.tick_needReset T q, ← p.tick_psgAcc T q,
    ← p.tick_dcHist T q, ← p.tick_dcSum T q, ← p.tick_dcIdx T q]

/-! ## Tones (41 R162, R163) -/

theorem Psg.tick_tone (T : Config.Tables) (q : Config.Params) (p : Psg) (v : Voice) :
    let c := p.toneCnt.get v + 1
    let fires := atLeastOne (p.tonePeriod.get v).toNat ≤ c.toNat
    (p.tick T q).toneCnt.get v = (if fires then 0 else c) ∧
      (p.tick T q).edge.get v = (if fires then !p.edge.get v else p.edge.get v) := by
  have htone := p.toneSteps_get v
  rw [← p.generators_toneCnt q, ← p.generators_edge q] at htone
  exact htone

/-- Settles O19: the frame of a tick, and the tone step in both of its cases. -/
theorem tickToneStep : Obligations.TickToneStep := by
  intro s v hs
  obtain ⟨hcnt, hedge⟩ := s.psg.tick_tone Config.tables s.params v
  refine ⟨_, exec_psgTick hs, s.psg.tick_frame Config.tables s.params, ?_, fun hbelow hperiod => ?_⟩
  · dsimp only
    split
    · exact ⟨hcnt.trans (if_pos ‹_›), hedge.trans (if_pos ‹_›)⟩
    · exact ⟨hcnt.trans (if_neg ‹_›), hedge.trans (if_neg ‹_›)⟩
  · have fires : atLeastOne (s.psg.tonePeriod.get v).toNat ≤ (s.psg.toneCnt.get v + 1).toNat :=
      atLeastOne_le (by bv_omega) (by bv_omega)
    exact ⟨hcnt.trans (if_pos fires), hedge.trans (if_pos fires)⟩

/-! ## Noise (41 R164) -/

theorem lfsrNext_getLsbD_low {i : Nat} (h : i < 16) (l : BitVec 17) : (lfsrNext l).getLsbD i = l.getLsbD (i + 1) := by
  simp only [lfsrNext, BitVec.getLsbD_append, BitVec.getLsbD_extractLsb', h, if_true, decide_true, Bool.true_and,
    Nat.add_comm 1 i]

theorem lfsrNext_getLsbD_top (l : BitVec 17) : (lfsrNext l).getLsbD 16 = (l.getLsbD 0 != l.getLsbD 3) := by
  simp only [lfsrNext, BitVec.getLsbD_append, Nat.lt_irrefl, if_false, Nat.sub_self, BitVec.getLsbD_ofBool]
  rfl

/-- The bits from 1 up are read from the next state, and bit 0 from its feedback once bit 3 is known. -/
theorem lfsrNext_injective : Function.Injective lfsrNext := by
  intro k l h
  have above : ∀ i, i < 16 → k.getLsbD (i + 1) = l.getLsbD (i + 1) := fun i hi => by
    rw [← lfsrNext_getLsbD_low hi, ← lfsrNext_getLsbD_low hi, h]
  have feedback : (k.getLsbD 0 != k.getLsbD 3) = (l.getLsbD 0 != l.getLsbD 3) := by
    rw [← lfsrNext_getLsbD_top, ← lfsrNext_getLsbD_top, h]
  rw [show k.getLsbD 3 = l.getLsbD 3 from above 2 (by decide)] at feedback
  apply BitVec.eq_of_getLsbD_eq
  rintro (_ | i) hi
  · exact Bool.bne_left_inj.1 feedback
  · exact above i (Nat.lt_of_succ_lt_succ hi)

/-- An injection of a finite type is onto, and only 0 steps to 0. -/
theorem lfsrNext_onto_nonzero {l : BitVec 17} (h : l ≠ 0) : ∃ k : BitVec 17, k ≠ 0 ∧ lfsrNext k = l := by
  obtain ⟨k, rfl⟩ := Finite.surjective_of_injective lfsrNext_injective l
  exact ⟨k, fun hk => h (by rw [hk]; rfl), rfl⟩

theorem lfsrNext_toNat (l : BitVec 17) :
    (lfsrNext l).toNat = l.toNat / 2 + if l.getLsbD 0 = l.getLsbD 3 then 0 else 2 ^ 16 := by
  have half : l.toNat / 2 < 2 ^ 16 := by omega
  have low : (l.extractLsb' 1 16).toNat = l.toNat / 2 := by
    rw [BitVec.extractLsb'_toNat, Nat.shiftRight_eq_div_pow]
    exact Nat.mod_eq_of_lt half
  rw [lfsrNext, BitVec.toNat_append, low, ← Nat.shiftLeft_add_eq_or_of_lt half, Nat.shiftLeft_eq, Nat.add_comm]
  cases l.getLsbD 0 <;> cases l.getLsbD 3 <;> rfl

/-- Settles O20: the noise state after a tick, and the shift register as an injection that keeps 0 apart. -/
theorem tickNoiseStep : Obligations.TickNoiseStep := by
  refine ⟨fun s hs => ?_, fun l => lfsrNext_ne_zero, fun k l h => lfsrNext_injective h, fun l => lfsrNext_onto_nonzero⟩
  obtain ⟨hcnt, hlfsr, hbit⟩ := s.psg.generators_noise s.params
  refine ⟨_, exec_psgTick hs, fun hhalf => ?_, fun hhalf => ?_⟩ <;>
    simp only [hhalf, reduceCtorEq, false_and, true_and, if_true, if_false] at hcnt hlfsr hbit
  · exact ⟨hcnt, hlfsr, hbit⟩
  · split
    · have shifted := hlfsr.trans (if_pos ‹_›)
      exact ⟨hcnt.trans (if_pos ‹_›), shifted, (congrArg BitVec.toNat shifted).trans (lfsrNext_toNat _),
        (hbit.trans (if_pos ‹_›)).trans (congrArg (BitVec.getLsbD · 0) shifted.symm)⟩
    · exact ⟨hcnt.trans (if_neg ‹_›), hlfsr.trans (if_neg ‹_›), hbit.trans (if_neg ‹_›)⟩

/-! ## The envelope (41 R166) -/

/-- The step's law by the cases of the period and of the wrap. -/
theorem Psg.envStep_cases (q : Config.Params) (p : Psg) :
    if atLeastOne p.envPeriod.toNat ≤ (p.envCnt + 1).toNat then
      (p.envStep q).envCnt = 0 ∧
      (if p.envPos = 31 then
        (p.envStep q).envPos = 0 ∧
        (p.envStep q).envAlt =
          (if q.envAltMode = .mirror ∧ (p.envTab.val = 4 ∨ p.envTab.val = 8) then !p.envAlt else p.envAlt)
      else (p.envStep q).envPos = p.envPos + 1 ∧ (p.envStep q).envAlt = p.envAlt)
    else (p.envStep q).envCnt = p.envCnt + 1 ∧ (p.envStep q).envPos = p.envPos ∧ (p.envStep q).envAlt = p.envAlt := by
  obtain ⟨hcnt, hpos, halt⟩ := p.envStep_get q
  split
  · rename_i fires
    rw [if_pos fires] at hcnt hpos
    refine ⟨hcnt, ?_⟩
    split
    · have wraps : p.envPos + 1 = 32 := by omega
      simp only [fires, wraps, true_and, Fin.ext_iff] at halt
      exact ⟨hpos.trans (if_pos wraps), halt⟩
    · have stays : p.envPos + 1 ≠ 32 := by omega
      exact ⟨hpos.trans (if_neg stays), halt.trans (if_neg fun h => stays h.2.1)⟩
  · exact ⟨hcnt.trans (if_neg ‹_›), hpos.trans (if_neg ‹_›), halt.trans (if_neg fun h => absurd h.1 ‹_›)⟩

/-- Settles O21: the envelope step where it is due, the old state where it is not. -/
theorem tickEnvelopeStep : Obligations.TickEnvelopeStep := by
  intro s hs
  obtain ⟨hcnt, hpos, halt⟩ := s.psg.generators_envelope s.params
  refine ⟨_, exec_psgTick hs, ?_⟩
  by_cases due : s.params.envCadence = .full ∨ s.psg.half = false
  · have step := s.psg.envStep_cases s.params
    rw [if_pos due] at hcnt hpos halt
    rw [← hcnt, ← hpos, ← halt] at step
    simp only [due, true_and, if_true]
    exact step
  · rw [if_neg due] at hcnt hpos halt
    rw [if_neg fun h => due h.1, if_neg due]
    exact ⟨hcnt, hpos, halt⟩

/-! ## Levels (41 R167 to R171) -/

theorem Psg.envLevel_eq (p : Psg) :
    p.envLevel = if p.envPos < 0 then envTable p.envTab (p.envPos + 32).toNat
      else envTable p.envTab (32 + p.envPos).toNat ^^^ (if p.envAlt then 31 else 0) := by
  unfold Psg.envLevel
  rw [Int.add_comm 32]
  cases p.envAlt <;> simp

theorem volumeField_toNat (vol : Byte) : (vol.extractLsb' 0 4).toNat = vol.toNat % 16 :=
  BitVec.extractLsb'_toNat ..

theorem Psg.level5_toNat (p : Psg) (v : Voice) :
    (p.level5 v).toNat =
      (let vol := p.regs[volumeReg v]
       if p.enabled v = false then 0 else if vol.getLsbD 4 then p.envLevel.toNat
       else if vol.toNat % 16 = 0 then 0 else 2 * (vol.toNat % 16) + 1) := by
  have silent (vol : Byte) : vol.extractLsb' 0 4 = 0 ↔ vol.toNat % 16 = 0 := by
    rw [← volumeField_toNat, ← BitVec.toNat_inj]
    rfl
  have fixed (f : BitVec 4) : (f ++ (1 : BitVec 1)).toNat = 2 * f.toNat + 1 := by
    rw [BitVec.toNat_append, ← Nat.shiftLeft_add_eq_or_of_lt (by decide), Nat.shiftLeft_eq, Nat.mul_comm]
    rfl
  simp only [Psg.level5, Bool.not_eq_true', silent, apply_ite BitVec.toNat, fixed, volumeField_toNat]
  rfl

theorem Psg.level4_toNat (p : Psg) (v : Voice) :
    (p.level4 v).toNat =
      (let vol := p.regs[volumeReg v]
       if p.enabled v = false then 0 else if vol.getLsbD 4 then p.envLevel.toNat / 2 else vol.toNat % 16) := by
  have halved (e : BitVec 5) : (e.extractLsb' 1 4).toNat = e.toNat / 2 := by
    rw [BitVec.extractLsb'_toNat, Nat.shiftRight_eq_div_pow]
    omega
  simp only [Psg.level4, Bool.not_eq_true', apply_ite BitVec.toNat, halved, volumeField_toNat]
  rfl

/-- Voice A is the low nibble of the composite index. -/
theorem compositeIndex_eq (a b c : BitVec 4) : c ++ b ++ a = BitVec.ofNat 12 (a.toNat + b.toNat * 16 + c.toNat * 256) := by
  apply BitVec.eq_of_toNat_eq
  rw [BitVec.toNat_append, BitVec.toNat_append, ← Nat.shiftLeft_add_eq_or_of_lt b.isLt,
    ← Nat.shiftLeft_add_eq_or_of_lt a.isLt, BitVec.toNat_ofNat, Nat.shiftLeft_eq, Nat.shiftLeft_eq]
  omega

theorem Psg.mixedLevel_measured {q : Config.Params} (h : q.mixMode = .measured) (T : Config.Tables) (p : Psg) :
    p.mixedLevel T q =
      (T.mix (BitVec.ofNat 12 ((p.level4 .a).toNat + (p.level4 .b).toNat * 16 + (p.level4 .c).toNat * 256))).val := by
  rw [← compositeIndex_eq, Psg.mixedLevel, h]

theorem Psg.mixedLevel_linear {q : Config.Params} (h : q.mixMode = .linear) (T : Config.Tables) (p : Psg) :
    p.mixedLevel T q =
      (T.vol (BitVec.ofNat 5 (p.level5 .a).toNat)).val + (T.vol (BitVec.ofNat 5 (p.level5 .b).toNat)).val +
        (T.vol (BitVec.ofNat 5 (p.level5 .c).toNat)).val := by
  simp only [BitVec.ofNat_toNat, BitVec.setWidth_eq]
  rw [Psg.mixedLevel, h]

/-- Settles O23: the levels latched by a tick are those of the state it leaves, which has the registers before it. -/
theorem tickLevels : Obligations.TickLevels := by
  intro s hs
  refine ⟨_, exec_psgTick hs, ?_⟩
  rw [← s.psg.tick_regs Config.tables s.params]
  have level : (s.psg.tick Config.tables s.params).level.toNat =
    (s.psg.tick Config.tables s.params).mixedLevel Config.tables s.params := tick_level ..
  have voices : (s.psg.tick Config.tables s.params).voiceLvl =
    .of (s.psg.tick Config.tables s.params).level5 := rfl
  generalize s.psg.tick Config.tables s.params = p at level voices ⊢
  rw [level, voices]
  dsimp only
  rw [← p.envLevel_eq]
  refine ⟨mixedLevel_le _ _ p, ⟨p.level5_toNat .a, p.level5_toNat .b, p.level5_toNat .c⟩, ?_⟩
  cases hmode : s.params.mixMode with
  | measured =>
    rw [Psg.mixedLevel_measured hmode, Psg.level4_toNat, Psg.level4_toNat, Psg.level4_toNat]
    rfl
  | linear =>
    rw [Psg.mixedLevel_linear hmode, Psg.level5_toNat, Psg.level5_toNat, Psg.level5_toNat]
    rfl

end Sys2Proof.Machine
end

section
/-! The PSG's interrupt boundary, down-sampler and DC removal (42_psg_output). A sample runs the ticks that are
due (`Psg.resample_eq`), its raw value is the largest or the mean of their levels, and DC removal puts it in
place of the oldest entry of the history; 2048 equal pushes replace the whole history. -/

namespace Sys2Proof.Machine

open Sys2Proof

/-! ## The interrupt boundary (42 R210) -/

theorem exec_psgInsideTimerIrq {s : State} (h : s.ready) (flag : Bool) :
    exec (.cmdPsgInsideTimerIrq flag) s = .next ((s.withPsg (s.psg.insideTimerIrq flag)).answer .ok .none) := by
  show execCmdPsgInsideTimerIrq flag s = _
  unfold execCmdPsgInsideTimerIrq
  rw [State.command_ready h]

/-- Settles O18: the frame of `InsideTimerIrq`, and what it does to each voice. -/
theorem leavingHandlerResetsEdges : Obligations.LeavingHandlerResetsEdges := by
  intro s flag hs
  refine ⟨_, exec_psgInsideTimerIrq hs flag, s.psg.insideTimerIrq_eq flag, fun v => ?_⟩
  obtain ⟨hcnt, hedge, hflag⟩ := s.psg.insideTimerIrq_get flag v
  simp only [and_assoc] at hcnt hedge
  exact ⟨hcnt, hedge, hflag⟩

/-! ## The ticks of a sample (42 R201) -/

theorem exec_psgSample {s : State} (h : s.ready) :
    exec .cmdPsgComputeNextSample s =
      .next ((s.withPsg (s.psg.sample Config.tables s.params s.hostRate).1).answer .ok
        (.sample (s.psg.sample Config.tables s.params s.hostRate).2)) := by
  show execCmdPsgComputeNextSample s = _
  unfold execCmdPsgComputeNextSample
  rw [State.command_ready h]

/-- What every turn keeps, any number of turns keeps. -/
theorem times_keeps {α : Type} {P : α → Prop} {f : α → α} (hf : ∀ x, P x → P (f x)) (n : Nat) {x : α}
    (hx : P x) : P (times f n x) := by
  induction n generalizing x with
  | zero => exact hx
  | succ n ih => exact ih (hf x hx)

/-- Ticks leave the history of DC removal alone. -/
theorem Psg.times_tick_history (T : Config.Tables) (q : Config.Params) (n : Nat) (p : Psg) :
    let r := times (fun p => p.tick T q) n p
    r.dcHist = p.dcHist ∧ r.dcSum = p.dcSum ∧ r.dcIdx = p.dcIdx :=
  times_keeps (P := fun r : Psg => r.dcHist = p.dcHist ∧ r.dcSum = p.dcSum ∧ r.dcIdx = p.dcIdx)
    (fun r hr => by simpa using hr) n ⟨rfl, rfl, rfl⟩

theorem Psg.carrying_carrying (p : Psg) (a b : Nat) : (p.carrying a).carrying b = p.carrying b := rfl

/-- A turn of the sampler's loop sets the level that a tick sets. -/
theorem Psg.times_timedTick_level (T : Config.Tables) (q : Config.Params) (rate n a : Nat) (p : Psg) :
    (times (fun p => p.timedTick T q rate) n (p.carrying a)).level = (times (fun p => p.tick T q) n p).level := by
  rw [Psg.times_timedTick, Psg.times_tick_carrying]
  rfl

/-- The PSG after the down-sampler: the ticks that were due, and the remainder of the time carried. -/
theorem Psg.resample_eq (T : Config.Tables) (q : Config.Params) (rate : Nat) (p : Psg) :
    (p.resample T q rate).1 =
      (times (fun p => p.tick T q) (p.tickCount rate) p).carrying ((p.psgAcc + Config.fInt) % rate) := by
  have turns := p.resample_psg T q rate
  rw [show ({ p with psgAcc := p.psgAcc + Config.fInt } : Psg) = p.carrying (p.psgAcc + Config.fInt) from rfl,
    Psg.times_timedTick, Psg.times_tick_carrying, Psg.carrying_carrying] at turns
  rw [Nat.mod_eq_sub_div_mul, ← Psg.tickCount]
  exact turns

/-- A push with the carried time beside it, field by field. -/
theorem Psg.carrying_dcPush (p : Psg) (c x : Nat) :
    (p.carrying c).dcPush x =
      { p with
        psgAcc := c
        dcHist := p.dcHist.set p.dcIdx.val (BitVec.ofNat 16 x)
        dcSum := p.dcSum + x - (p.dcHist.getD p.dcIdx.val 0).toNat
        dcIdx := p.dcIdx + 1 } := rfl

/-- The PSG after a sample: the ticks that were due, and the raw sample pushed into the history. -/
theorem Psg.sample_eq (T : Config.Tables) (q : Config.Params) (rate : Nat) (p : Psg) :
    (p.sample T q rate).1 =
      { times (fun p => p.tick T q) (p.tickCount rate) p with
        psgAcc := (p.psgAcc + Config.fInt) % rate
        dcHist := p.dcHist.set p.dcIdx.val (BitVec.ofNat 16 (p.resample T q rate).2)
        dcSum := p.dcSum + (p.resample T q rate).2 - (p.dcHist.getD p.dcIdx.val 0).toNat
        dcIdx := p.dcIdx + 1 } := by
  obtain ⟨hhist, hsum, hidx⟩ := Psg.times_tick_history T q (p.tickCount rate) p
  show (p.resample T q rate).1.dcPush (p.resample T q rate).2 = _
  rw [Psg.resample_eq, Psg.carrying_dcPush, hhist, hsum, hidx]

/-- A legal rate has at least one tick in a sample, and at most one more than the whole periods of its parts. -/
theorem Psg.tickCount_bounds {rate : Nat} (hmin : 1 ≤ rate) (hmax : rate ≤ 250000) (p : Psg) :
    1 ≤ p.tickCount rate ∧ p.tickCount rate ≤ 250000 / rate + (p.psgAcc / rate + 1) := by
  unfold Psg.tickCount
  rw [fInt_eq]
  constructor
  · exact (Nat.one_le_div_iff hmin).2 (by omega)
  · rw [Nat.add_div hmin]
    split <;> omega

/-! ## The raw sample (42 R202, R203) -/

/-- `MaxHold`: the largest level of the ticks. -/
theorem Psg.resample_maxHold {q : Config.Params} (hq : q.downsample = .maxHold) (T : Config.Tables) {rate : Nat} {p : Psg}
    (hn : 1 ≤ p.tickCount rate) :
    (∃ k, k < p.tickCount rate ∧ (p.resample T q rate).2 = (times (fun p => p.tick T q) (k + 1) p).level.toNat) ∧
      ∀ k, k < p.tickCount rate → (times (fun p => p.tick T q) (k + 1) p).level.toNat ≤ (p.resample T q rate).2 := by
  have held : (p.resample T q rate).2 =
      (Psg.maxHold T q rate (p.tickCount rate) (p.carrying (p.psgAcc + Config.fInt)) 0).2 := by
    simp only [Psg.resample, hq]
    rw [if_neg (Nat.ne_of_gt hn)]
    rfl
  obtain ⟨hmem, -, hmax⟩ := Psg.maxHold_spec T q rate (p.tickCount rate) (p.carrying (p.psgAcc + Config.fInt)) 0
    (fun k => times (fun p => p.timedTick T q rate) k (p.carrying (p.psgAcc + Config.fInt))) fun _ => rfl
  simp only [Psg.times_timedTick_level, ← held] at hmem hmax
  refine ⟨?_, hmax⟩
  rcases hmem with hzero | hmem
  · exact ⟨0, hn, Nat.le_antisymm (hzero.le.trans (Nat.zero_le _)) (hmax 0 hn)⟩
  · exact hmem

/-- When the k-th tick of a sample falls due, from the sample's start; 0 stands for the start itself (42 R203). -/
def Psg.tickTime (rate : Nat) (p : Psg) (k : Nat) : Nat := if k = 0 then 0 else k * rate - p.psgAcc

/-- The loop variables of 42 R203 after n ticks. -/
theorem Psg.average_carrying (T : Config.Tables) (q : Config.Params) (rate n a : Nat) (p : Psg) :
    Psg.average T q rate p.psgAcc n (p.carrying a) ⟨0, 0, 0⟩ =
      (times (fun p => p.timedTick T q rate) n (p.carrying a),
        ⟨n, p.tickTime rate n, ((List.range n).map fun k =>
          (times (fun p => p.tick T q) k p).level.toNat * (p.tickTime rate (k + 1) - p.tickTime rate k)).sum⟩) := by
  refine Prod.ext (Psg.average_psg ..) ?_
  rw [Psg.average_eq T q rate p.psgAcc n (p.carrying a) ⟨0, 0, 0⟩ _ (p.tickTime rate) (fun _ => rfl)
    (fun k => by rw [Nat.zero_add, Psg.tickTime])]
  simp only [Psg.times_timedTick_level, Nat.zero_add]

/-- `LinearAverage`: the levels weighted by the time from the tick that set each to the next, the last to the
end of the sample. -/
theorem Psg.resample_average {q : Config.Params} (hq : q.downsample = .linearAverage) (T : Config.Tables) (rate : Nat)
    (p : Psg) :
    (p.resample T q rate).2 =
      (((List.range (p.tickCount rate)).map fun k =>
          (times (fun p => p.tick T q) k p).level.toNat * (p.tickTime rate (k + 1) - p.tickTime rate k)).sum
        + (times (fun p => p.tick T q) (p.tickCount rate) p).level.toNat
          * (250000 - p.tickTime rate (p.tickCount rate))) / 250000 := by
  have mean : (p.resample T q rate).2 =
      (let v := Psg.average T q rate p.psgAcc (p.tickCount rate) (p.carrying (p.psgAcc + Config.fInt)) ⟨0, 0, 0⟩
       (v.2.sum + v.1.level.toNat * (Config.fInt - v.2.t)) / Config.fInt) := by
    simp only [Psg.resample, hq]
    rfl
  rw [mean, Psg.average_carrying]
  dsimp only
  rw [Psg.times_timedTick_level, fInt_eq]

/-- Settles O24: the ticks due, the raw sample by strategy, and DC removal. The number of ticks is a variable where
the parts are put together, so that no check evaluates the clock in it. -/
theorem psgSampleRunsDueTicks : Obligations.PsgSampleRunsDueTicks := by
  intro s hs ⟨hmin, hmax⟩
  obtain ⟨hone, hmany⟩ := s.psg.tickCount_bounds hmin hmax
  have hpsg := s.psg.sample_eq Config.tables s.params s.hostRate
  have hmaxHold := fun hq => s.psg.resample_maxHold (q := s.params) hq Config.tables hone
  have haverage := fun hq => s.psg.resample_average (q := s.params) hq Config.tables s.hostRate
  simp only [Psg.tickTime] at haverage
  rw [Psg.tickCount, fInt_eq] at hone hmany hpsg hmaxHold haverage
  obtain ⟨n, hn⟩ : ∃ n, (s.psg.psgAcc + 250000) / s.hostRate = n := ⟨_, rfl⟩
  rw [hn] at hone hmany hpsg hmaxHold haverage ⊢
  exact ⟨_, _, exec_psgSample hs, hone, hmany, hpsg, hmaxHold, fun hq _ => haverage hq⟩

/-! ## The range, and a constant input (42 R206) -/

theorem Psg.sample_bounds {p : Psg} {rate : Nat} (h : p.Inv rate) (hr : 1 ≤ rate) (T : Config.Tables) (q : Config.Params) :
    -32767 ≤ (p.sample T q rate).2 ∧ (p.sample T q rate).2 ≤ 32767 := by
  have hraw : (p.resample T q rate).2 ≤ 32767 := p.resample_le T q rate h.level
  have hmean : (p.sample T q rate).1.dcSum / Config.dcLen ≤ 32767 := (h.sample T q hr).mean_le
  have hout : (p.sample T q rate).2 =
    ((p.resample T q rate).2 : Int) - (((p.sample T q rate).1.dcSum / Config.dcLen : Nat) : Int) := rfl
  rw [hout]
  generalize (p.sample T q rate).1.dcSum / Config.dcLen = mean at hmean ⊢
  omega

/-- After k pushes of one value the last k entries of the ring hold it. -/
theorem Psg.times_dcPush_ring {p : Psg} (hlen : p.dcHist.length = 2048) (x k : Nat) :
    let r := times (fun p => p.dcPush x) k p
    r.dcHist.length = 2048 ∧ r.dcIdx.val = (p.dcIdx.val + k) % 2048 ∧
      ∀ j, j < k → r.dcHist[(p.dcIdx.val + j) % 2048]? = some (BitVec.ofNat 16 x) := by
  induction k with
  | zero => exact ⟨hlen, (Nat.mod_eq_of_lt p.dcIdx.isLt).symm, nofun⟩
  | succ k ih =>
    obtain ⟨hl, hidx, hring⟩ := ih
    rw [times_succ]
    generalize times (fun p => p.dcPush x) k p = r at *
    refine ⟨(List.length_set ..).trans hl, ?_, fun j hj => ?_⟩
    · show (r.dcIdx + 1).val = _
      rw [Fin.val_add, hidx]
      show ((p.dcIdx.val + k) % 2048 + 1) % 2048 = _
      omega
    · show (r.dcHist.set r.dcIdx.val _)[_]? = _
      by_cases hat : r.dcIdx.val = (p.dcIdx.val + j) % 2048
      · rw [← hat, List.getElem?_set_self (by rw [hl]; exact r.dcIdx.isLt)]
      · rw [List.getElem?_set_ne hat]
        exact hring j (Nat.lt_of_le_of_ne (Nat.le_of_lt_succ hj) fun e => hat (by rw [hidx, e]))

/-- 2048 pushes of one value leave nothing else in the history. -/
theorem Psg.times_dcPush_constant {p : Psg} (hlen : p.dcHist.length = 2048) (x : Nat) :
    (times (fun p => p.dcPush x) 2048 p).dcHist = List.replicate 2048 (BitVec.ofNat 16 x) := by
  obtain ⟨hl, -, hring⟩ := Psg.times_dcPush_ring hlen x 2048
  apply List.eq_replicate_iff.2 ⟨hl, fun y hy => ?_⟩
  obtain ⟨i, hi, rfl⟩ := List.getElem_of_mem hy
  rw [hl] at hi
  have hidx : p.dcIdx.val < 2048 := p.dcIdx.isLt
  have hat := hring ((i + 2048 - p.dcIdx.val) % 2048) (Nat.mod_lt _ (by decide))
  rw [show (p.dcIdx.val + (i + 2048 - p.dcIdx.val) % 2048) % 2048 = i by omega] at hat
  exact (List.getElem?_eq_some_iff.1 hat).2

/-- Settles O25: raw sample and mean lie between 0 and the ceiling, and the mean of a constant history is the
constant. -/
theorem psgSampleRange : Obligations.PsgSampleRange := by
  refine ⟨fun s hs ⟨⟨hmin, _⟩, hinv⟩ => ⟨_, _, exec_psgSample hs, rfl, Psg.sample_bounds hinv hmin _ _⟩,
    fun rate p x hinv hx => ?_⟩
  have kept := times_keeps (P := Psg.Inv rate) (fun r hr => hr.dcPush hx) 2048 hinv
  have hsum : (times (fun p => p.dcPush x) 2048 p).dcSum = 2048 * x := by
    rw [kept.dcSum, Psg.times_dcPush_constant hinv.dcLength, List.map_replicate, ceiling_toNat hx, List.sum_replicate,
      smul_eq_mul]
  unfold Psg.dcOut
  rw [hsum, show Config.dcLen = 2048 from rfl, Nat.mul_div_cancel_left x (by decide), Int.sub_self]

end Sys2Proof.Machine
end

section
/-! The host's own sample and the render (45 R360, R374), and what follows the end of a handler or of a play
call. The timers still to tick and the rest of a sample are one operation (`State.finishTimers`), shared by the
host command and by the return from a handler; from the head of the render loop `State.renderLoop_goesOn` says
the rest. -/

namespace Sys2Proof.Machine

open Sys2Proof

/-! ## The rest of a sample (45 R360) -/

/-- The timers left of a sample, and its production once they are done. -/
def State.finishTimers (x : Int) (r : Option Render) (l : List Timer) (s : State) : State :=
  let s1 := State.timerLoop x r l s
  if s1.busy then s1 else s1.finishSample x r

theorem State.computeSample_eq (s : State) :
    s.computeSample = s.sampleMade.finishTimers s.sampleValue none [.a, .b, .c, .d] := rfl

theorem State.resume_irq (rest : List Timer) (x : Int) (r : Option Render) (ok : Bool) (s : State) :
    State.resume (.irq rest x r) ok s = (s.returnFromHandler ok).finishTimers x r rest := rfl

theorem State.finishTimers_fires {s : State} (hf : s.sessionFault = false) (x : Int) (r : Option Render)
    {pre post : List Timer} {t : Timer} (hq : s.quiet pre) (ht : (s.ticked (pre ++ [t])).fires t) :
    s.finishTimers x r (pre ++ t :: post) = (s.ticked (pre ++ [t])).dispatch t (.irq post x r) := by
  unfold State.finishTimers
  rw [State.timerLoop_fires hf x r hq ht]
  exact if_pos (State.dispatch_busy ..)

/-- The timers of a list ticked, or none of them after a session fault (45 R360). -/
def State.timersDone (s : State) (l : List Timer) : State := if s.sessionFault = true then s else s.ticked l

theorem State.timersDone_fault {s : State} (hf : s.sessionFault = true) (l : List Timer) : s.timersDone l = s := if_pos hf

theorem State.timersDone_ticked {s : State} (hf : s.sessionFault = false) (l : List Timer) : s.timersDone l = s.ticked l :=
  if_neg (by simp [hf])

/-- The timers are all that changes. -/
theorem State.timersDone_frame (s : State) (l : List Timer) : s.timersDone l = { s with mfp := (s.timersDone l).mfp } := by
  unfold State.timersDone
  split <;> rfl

@[simp] theorem State.timersDone_busy (s : State) (l : List Timer) : (s.timersDone l).busy = s.busy := by
  rw [State.timersDone_frame]
@[simp] theorem State.timersDone_sessionFault (s : State) (l : List Timer) :
    (s.timersDone l).sessionFault = s.sessionFault := by
  rw [State.timersDone_frame]
@[simp] theorem State.timersDone_irqFailed (s : State) (l : List Timer) : (s.timersDone l).irqFailed = s.irqFailed := by
  rw [State.timersDone_frame]
@[simp] theorem State.timersDone_psg (s : State) (l : List Timer) : (s.timersDone l).psg = s.psg := by
  rw [State.timersDone_frame]
@[simp] theorem State.timersDone_oob (s : State) (l : List Timer) : (s.timersDone l).oob = s.oob := by
  rw [State.timersDone_frame]

/-- With no timer that signals the sample is finished. -/
theorem State.finishTimers_quiet {s : State} (hb : s.busy = false) {l : List Timer} (h : s.sessionFault = true ∨ s.quiet l)
    (x : Int) (r : Option Render) : s.finishTimers x r l = (s.timersDone l).finishSample x r := by
  have loop : State.timerLoop x r l s = s.timersDone l := by
    cases hf : s.sessionFault with
    | true => rw [State.timersDone_fault hf, State.timerLoop_fault hf]
    | false => rw [State.timersDone_ticked hf, State.timerLoop_quiet hf x r (h.resolve_left (by simp [hf]))]
  unfold State.finishTimers
  rw [loop]
  exact if_neg (by rw [State.timersDone_busy, hb]; decide)

theorem State.finishSample_host (x : Int) (s : State) :
    s.finishSample x none = { s with out := { s.out with
      result := .ok
      value := .sample x
      dbg := if s.oob.debug = true then [debugComposite s.psg.voiceLvl] else [] } } := by
  unfold State.finishSample
  rw [Psg.debugWord_eq]

theorem State.pushSample_eq (s : State) (x : Int) (debug : Bool) :
    s.pushSample x debug = { s with out := { s.out with
      buf := s.out.buf ++ [x]
      dbg := s.out.dbg ++ (if debug = true then [debugComposite s.psg.voiceLvl] else []) } } := by
  unfold State.pushSample
  rw [Psg.debugWord_eq]
  cases debug
  · rw [if_neg Bool.false_ne_true, if_neg Bool.false_ne_true, List.append_nil]
  · rfl

/-- A sample of a render after which nothing has failed: the loop goes on from the next tick. -/
theorem State.finishSample_goesOn {s : State} (hb : s.busy = false) (hf : s.sessionFault = false) (hi : s.irqFailed = false)
    (x : Int) (r : Render) :
    RenderGoesOn (s.pushSample x r.debug).advanceTick (s.finishSample x (some r)) { r with done := r.done + 1 } := by
  have clean : ¬ (s.pushSample x r.debug).sampleFailed = true := by simp [State.sampleFailed, hf, hi]
  unfold State.finishSample
  dsimp only
  rw [if_neg clean]
  exact State.renderLoop_goesOn { r with done := r.done + 1 } hb

theorem State.finishSample_failed {s : State} (h : s.sessionFault = true ∨ s.irqFailed = true) (x : Int) (r : Render) :
    s.finishSample x (some r) =
      (s.pushSample x r.debug).answer (s.pushSample x r.debug).failResult (.written (r.done + 1)) := by
  have failed : (s.pushSample x r.debug).sampleFailed = true := by simpa [State.sampleFailed] using h
  unfold State.finishSample
  dsimp only
  rw [if_pos failed]
  rfl

/-! ## The host's own sample (45 R360) -/

theorem exec_dmaSample {s : State} (h : s.ready) :
    exec .cmdDmaComputeNextSample s =
      .next (((s.withDma (dmaSample s.hostRate s.mem s.dma s.mfp).1.1).withMfp
        (dmaSample s.hostRate s.mem s.dma s.mfp).1.2).answer .ok
          (.sample (dmaSample s.hostRate s.mem s.dma s.mfp).2)) := by
  show execCmdDmaComputeNextSample s = _
  unfold execCmdDmaComputeNextSample
  rw [State.command_ready h]

theorem exec_computeNextSample {s : State} (h : s.ready) :
    exec .cmdComputeNextSample s = .next (s.sampleMade.finishTimers s.sampleValue none [.a, .b, .c, .d]) := by
  show execCmdComputeNextSample s = _
  unfold execCmdComputeNextSample
  rw [State.command_ready h, State.computeSample_eq]

theorem State.sampleMade_quiet_of_masked {s : State} (ha : s.mfp.imra = 0) (hb : s.mfp.imrb = 0) (l : List Timer) :
    s.sampleMade.quiet l := by
  obtain ⟨keepA, keepB⟩ := dmaSample_masks s.hostRate s.mem s.dma s.mfp
  exact State.quiet_of_masked (s := s.sampleMade) (keepA.trans ha) (keepB.trans hb) l

/-- The bytes of the debug composite (42 R207). -/
theorem debugComposite_bytes (l : PerVoice (BitVec 5)) :
    (debugComposite l).extractLsb' 0 8 = l.a.setWidth 8 ∧ (debugComposite l).extractLsb' 8 8 = l.b.setWidth 8 ∧
      (debugComposite l).extractLsb' 16 8 = l.c.setWidth 8 ∧ (debugComposite l).extractLsb' 24 8 = 0 := by
  have ha := l.a.isLt
  have hb := l.b.isLt
  have hc := l.c.isLt
  unfold debugComposite
  refine ⟨?_, ?_, ?_, ?_⟩ <;>
    · apply BitVec.eq_of_toNat_eq
      simp only [BitVec.extractLsb'_toNat, BitVec.ofNat_eq_ofNat, BitVec.toNat_ofNat, BitVec.toNat_setWidth,
        Nat.shiftRight_eq_div_pow]
      omega

/-- A sample at which no timer signals, or after a session fault. -/
theorem exec_computeNextSample_quiet {s : State} (h : s.ready)
    (hq : s.sessionFault = true ∨ s.sampleMade.quiet [.a, .b, .c, .d]) :
    exec .cmdComputeNextSample s =
      .next ((s.sampleMade.timersDone [.a, .b, .c, .d]).finishSample s.sampleValue none) := by
  rw [exec_computeNextSample h, State.finishTimers_quiet (s := s.sampleMade) h.2 hq]

/-- The host asks for the debug composite, or does not. -/
def State.withDebug (s : State) (b : Bool) : State := { s with oob := { s.oob with debug := b } }

theorem State.timersDone_withDebug (s : State) (b : Bool) (l : List Timer) :
    (s.withDebug b).timersDone l = (s.timersDone l).withDebug b :=
  (apply_ite (fun t : State => t.withDebug b) (s.sessionFault = true) s (s.ticked l)).symm

/-- The production of a sample does not look at the request, which shows in the answer alone. -/
theorem exec_computeNextSample_withDebug {s : State} (h : s.ready) (hq : s.sampleMade.quiet [.a, .b, .c, .d]) (b : Bool) :
    exec .cmdComputeNextSample (s.withDebug b) =
      .next (((s.sampleMade.timersDone [.a, .b, .c, .d]).withDebug b).finishSample s.sampleValue none) := by
  rw [exec_computeNextSample_quiet (s := s.withDebug b) h (.inr hq), ← State.timersDone_withDebug]
  rfl

/-- Settles O54: the sample is made of the two units' samples, the timers decide how it ends, and the debug request
shows in the answer alone. -/
theorem computeNextSampleOutcomes : Obligations.ComputeNextSampleOutcomes := by
  refine ⟨fun s hs => ⟨_, _, _, _, exec_psgSample hs, rfl, exec_dmaSample hs, rfl, rfl, rfl, fun hf => ?_,
    fun ha hb => State.sampleMade_quiet_of_masked ha hb _, fun hf hq => ?_, fun hf pre post t e hq ht => ?_⟩,
    fun s hs ha hb => ?_⟩
  · rw [exec_computeNextSample_quiet hs (.inl hf), State.timersDone_fault (s := s.sampleMade) hf, State.finishSample_host]
    rfl
  · rw [exec_computeNextSample_quiet hs (.inr hq), State.timersDone_ticked (s := s.sampleMade) hf, State.finishSample_host]
    rfl
  · rw [exec_computeNextSample hs, e]
    exact congrArg _ (State.finishTimers_fires (s := s.sampleMade) hf _ none hq ht)
  · have answers := exec_computeNextSample_withDebug hs (State.sampleMade_quiet_of_masked ha hb _)
    simp only [State.finishSample_host] at answers
    exact ⟨_, answers false, rfl, _, answers true, debugComposite_bytes _⟩

/-! ## The start of a render (45 R374) -/

/-- The state a render begins in: `irqFailed` clear, the caller's buffer and the debug stream empty. -/
def State.renderCleared (s : State) : State :=
  { s with irqFailed := false, out := { s.out with buf := [], dbg := [] } }

theorem exec_audioRender {s : State} (h : s.ready) (n : Long) :
    exec (.cmdAudioRender n) s = .next
      (if s.sessionFault then s.renderNothing (.failFatal s.faultCode s.faultInfo)
       else if s.seq.curSubsong = 0 then s.renderNothing .failInvalid
       else State.renderLoop n.toNat ⟨n.toNat, 0, s.oob.debug⟩ s.renderCleared) := by
  show execCmdAudioRender n s = _
  unfold execCmdAudioRender
  rw [State.command_ready h]
  rfl

/-- With a subsong and no session fault the loop is entered. -/
theorem exec_audioRender_begins {s : State} (h : s.ready) (hf : s.sessionFault = false) (hc : s.seq.curSubsong ≠ 0)
    (n : Long) :
    exec (.cmdAudioRender n) s =
      .next (State.renderLoop n.toNat ⟨n.toNat, 0, s.oob.debug⟩ s.renderCleared) := by
  rw [exec_audioRender h, if_neg (by simp [hf]), if_neg hc]

theorem State.renderCleared_goesOn {s : State} (h : s.ready) (n : Nat) :
    RenderGoesOn s.renderCleared (State.renderLoop n ⟨n, 0, s.oob.debug⟩ s.renderCleared) ⟨n, 0, s.oob.debug⟩ :=
  State.renderLoop_goesOn ⟨n, 0, s.oob.debug⟩ h.2

/-- Settles O50: the three renders that write nothing, and the loop from its head. -/
theorem renderStarts : Obligations.RenderStarts := by
  intro s n hs
  refine ⟨fun hf => ?_, fun hf hc => ?_, fun hf hc hn => ?_,
    fun hf hc => ⟨_, exec_audioRender_begins hs hf hc n, State.renderCleared_goesOn hs n.toNat⟩⟩
  · rw [exec_audioRender hs, if_pos hf]
    rfl
  · rw [exec_audioRender hs, if_neg (by simp [hf]), if_pos hc]
    rfl
  · rw [exec_audioRender_begins hs hf hc, hn]
    rfl

/-- Settles O52: the sample of the first turn is that of the two unit commands, and its first timer to signal is
dispatched. -/
theorem renderSampleDispatches : Obligations.RenderSampleDispatches := by
  intro s u v n p d hs hf hc hn htick hu hp hv hd made pre post t e hq ht
  obtain rfl := Host.Outcome.next.inj ((exec_psgSample hs).symm.trans hu)
  obtain rfl := Host.Outcome.next.inj ((exec_dmaSample hs).symm.trans hv)
  obtain rfl := Value.sample.inj hp
  obtain rfl := Value.sample.inj hd
  obtain ⟨k, hk⟩ : ∃ k, n.toNat = k + 1 :=
    Nat.exists_eq_succ_of_ne_zero fun h => hn (BitVec.eq_of_toNat_eq h)
  have fires := State.renderLoop_fires (s := s.renderCleared) k ⟨n.toNat, 0, s.oob.debug⟩ hf htick e hq ht
  rw [← hk] at fires
  rw [exec_audioRender_begins hs hf hc]
  exact congrArg Host.Outcome.next fires

/-- Settles O53: a render that nothing disturbs is brought to its end. -/
theorem quietRenderWritesEverySample : Obligations.QuietRenderWritesEverySample := by
  intro s n hs hf hc ha hb hn htick
  have hpos : 0 < n.toNat := Nat.pos_of_ne_zero fun h => hn (BitVec.eq_of_toNat_eq h)
  have done : RenderDone s.renderCleared _ _ :=
    (State.renderCleared_goesOn hs n.toNat).undisturbed hpos ⟨hf, rfl, ha, hb, htick⟩
  obtain ⟨hresult, hvalue⟩ := done.result
  obtain ⟨xs, hbuf, hlength, hrange, -⟩ := done.samples
  obtain ⟨hbusy, hmem, hcpu, hregs, -⟩ := done.frame
  have hwritten : _ = xs := hbuf.trans (List.nil_append xs)
  refine ⟨_, exec_audioRender_begins hs hf hc n, hresult, hvalue, ?_, ?_, hbusy.trans hs.2, hmem, hcpu, ?_, hregs, done⟩
  · rw [hwritten]
    exact hlength
  · rw [hwritten]
    exact hrange
  · rw [done.tick]
    rfl

/-! ## What follows a bounded execution (45 R340, R362, R374) -/

theorem State.runEnded_withInputs (s : State) (l : List Input) :
    State.runEnded { s with inputs := l } = { s.runEnded with inputs := l } := by
  unfold State.runEnded
  dsimp only
  split <;> rfl

/-- The return that ends a run hands the outcome to the caller. -/
theorem step_runEnds {s : State} {c : Nat} {rest : List Input} (hin : s.inputs = .agentReturn c :: rest)
    (hb : s.busy = true) (h : s.runEnds c) :
    step s = .next (State.resume s.run.caller (s.exit = .sentinel) { s.runEnded with inputs := rest }) := by
  rw [step_agentReturn hin, State.agentReturn_ends (s := { s with inputs := rest }) hb h, State.runEnded_withInputs]

/-- Settles O51: the failure of a play call, or the loop from its head. -/
theorem playReturnContinuesRender : Obligations.PlayReturnContinuesRender := by
  intro s c rest r hin hb hcaller hends
  have hstep := step_runEnds hin hb hends
  rw [hcaller] at hstep
  refine ⟨fun hx => ?_, fun hx => ⟨_, ?_, State.renderLoop_goesOn r s.runEnded_busy⟩⟩
  · rw [hstep, decide_eq_false hx]
    rfl
  · rw [hstep, decide_eq_true hx]
    rfl

/-- What the return from a handler leaves: the PSG told, and a missed sentinel kept (45 R361, R362). -/
theorem State.returnFromHandler_runEnded (s : State) (rest : List Input) :
    State.returnFromHandler { s.runEnded with inputs := rest } (s.exit = .sentinel) =
      { s.runEnded with
        inputs := rest
        psg := s.psg.insideTimerIrq false
        irqFailed := s.irqFailed || decide (s.exit ≠ .sentinel) } := by
  unfold State.returnFromHandler State.withPsg
  simp only [State.runEnded_psg, State.runEnded_irqFailed, decide_not]

/-- Settles O44: the timers left, then the sample for the host or for its render. -/
theorem handlerReturnAnswersSample : Obligations.HandlerReturnAnswersSample := by
  intro s c rest ts x r hin hb hcaller hends b d word
  have hstep : step s = .next (b.finishTimers x r ts) := by
    rw [step_runEnds hin hb hends, hcaller, State.resume_irq, State.returnFromHandler_runEnded]
  have hidle : b.busy = false := s.runEnded_busy
  have hoob : b.oob = s.oob := s.runEnded_oob
  clear_value b
  have hd : d = b.timersDone ts := rfl
  have hword : word = debugComposite d.psg.voiceLvl := by rw [hd, State.timersDone_psg]
  clear_value d word
  refine ⟨fun hf pre post t e hq ht => ?_, fun h => ?_⟩
  · rw [hstep, e, State.finishTimers_fires hf x r hq ht]
  · rw [State.finishTimers_quiet hidle h, ← hd] at hstep
    refine ⟨fun hr => ?_, fun rr hr => ⟨fun hfail => ?_, fun hf hi => ⟨_, hstep, ?_⟩⟩⟩
    · rw [hstep, hr, State.finishSample_host, hword, ← hoob, hd, State.timersDone_oob]
    · rw [hstep, hr, State.finishSample_failed (by rw [hd]; simpa using hfail), State.pushSample_eq, hword]
    · have goesOn := State.finishSample_goesOn (s := d) (by simp [hd, hidle]) (by simp [hd, hf]) (by simp [hd, hi]) x rr
      rw [State.pushSample_eq, ← hword] at goesOn
      rw [hr]
      exact goesOn

end Sys2Proof.Machine
end

section
/-! The registers and the window of the timer unit (43_timer R241 to R254, 30_encoding R105). A register write
by register (`Mfp.write_tacr` and its like), and the window through the register an offset names
(`MfpReg.offset_of_ofOffset`, `MfpReg.ofOffset_eq_none_iff`). -/

namespace Sys2Proof.Machine

open Sys2Proof

/-- The row of a register performs the register's write. -/
theorem exec_mfpWrite {s : State} {b : Byte} {m : Mfp} (r : MfpReg) (h : s.mfp.write r b = m) :
    exec (mfpWriteRow b r) s = .next { s with mfp := m } := by
  rw [exec_mfpWriteRow, h]
  rfl

/-! ## Control and data registers (43 R241, R246) -/

/-- A mask that is all ones over a field keeps the field. -/
theorem field_masked {mask : Byte} {k n : Nat} (h : mask.extractLsb' k n = BitVec.allOnes n) (b : Byte) :
    (b &&& mask).extractLsb' k n = b.extractLsb' k n := by
  rw [BitVec.extractLsb'_and, h, BitVec.and_allOnes]

/-- The phase restarts where the field that holds the mode changed. -/
theorem Mfp.restart_of_field {old m : Mfp} {t : Timer} {n : Nat} {x y : BitVec n} (hx : m.timerMode t = x.toNat)
    (hy : old.timerMode t = y.toNat) :
    Mfp.restartIfChanged old m t = { m with tacc := if x = y then m.tacc else m.tacc.set t 0 } := by
  unfold Mfp.restartIfChanged
  simp only [hx, hy, BitVec.toNat_inj]
  split <;> rfl

/-- The counter is loaded where the field that holds the mode is 0. -/
theorem Mfp.load_of_field {m : Mfp} {t : Timer} {n : Nat} {x : BitVec n} (hx : m.timerMode t = x.toNat) :
    m.loadIfStopped t = { m with cnt := if x = 0 then m.cnt.set t (reload (m.data t)) else m.cnt } := by
  unfold Mfp.loadIfStopped
  simp only [hx, show x.toNat = 0 ↔ x = 0 from BitVec.toNat_inj (y := 0)]
  split <;> rfl

theorem Mfp.write_tacr (m : Mfp) (b : Byte) :
    m.write .tacr b = { m with
      tacr := b &&& 0x0F
      tacc := if b.extractLsb' 0 4 = m.tacr.extractLsb' 0 4 then m.tacc else { m.tacc with a := 0 } } :=
  Mfp.restart_of_field (congrArg BitVec.toNat (field_masked (by decide) b)) rfl

theorem Mfp.write_tbcr (m : Mfp) (b : Byte) :
    m.write .tbcr b = { m with
      tbcr := b &&& 0x0F
      tacc := if b.extractLsb' 0 4 = m.tbcr.extractLsb' 0 4 then m.tacc else { m.tacc with b := 0 } } :=
  Mfp.restart_of_field (congrArg BitVec.toNat (field_masked (by decide) b)) rfl

/-- Each of the two timers of `TCDCR` by its own field. -/
theorem Mfp.write_tcdcr_fields (m : Mfp) (b : Byte) :
    m.write .tcdcr b = { m with
      tcdcr := b &&& 0x77
      tacc := { m.tacc with
        c := if b.extractLsb' 4 3 = m.tcdcr.extractLsb' 4 3 then m.tacc.c else 0
        d := if b.extractLsb' 0 3 = m.tcdcr.extractLsb' 0 3 then m.tacc.d else 0 } } := by
  rw [Mfp.write_tcdcr]
  simp only [Mfp.timerMode, field_masked (show (0x77 : Byte).extractLsb' 4 3 = BitVec.allOnes 3 by decide),
    field_masked (show (0x77 : Byte).extractLsb' 0 3 = BitVec.allOnes 3 by decide), BitVec.toNat_inj]
  split_ifs <;> rfl

/-- Settles O27: the phase after a control write, and the counter after a data write, by the field of the mode. -/
theorem timerControlAndDataWrites : Obligations.TimerControlAndDataWrites := fun s b =>
  ⟨exec_mfpWrite .tacr (s.mfp.write_tacr b), exec_mfpWrite .tbcr (s.mfp.write_tbcr b),
    exec_mfpWrite .tcdcr (s.mfp.write_tcdcr_fields b),
    exec_mfpWrite .tadr (Mfp.load_of_field (m := { s.mfp with tadr := b }) (t := .a) rfl),
    exec_mfpWrite .tbdr (Mfp.load_of_field (m := { s.mfp with tbdr := b }) (t := .b) rfl),
    exec_mfpWrite .tcdr (Mfp.load_of_field (m := { s.mfp with tcdr := b }) (t := .c) rfl),
    exec_mfpWrite .tddr (Mfp.load_of_field (m := { s.mfp with tddr := b }) (t := .d) rfl)⟩

/-! ## Interrupt and storage registers (43 R249 to R254) -/

/-- A write of `VR` with S = 0 ends every service (43 R254). -/
theorem Mfp.write_vr (m : Mfp) (b : Byte) :
    m.write .vr b = { m with
      vr := b &&& 0xF8
      isra := if b.getLsbD 3 = true then m.isra else 0
      isrb := if b.getLsbD 3 = true then m.isrb else 0 } := by
  have stored : (b &&& 0xF8).getLsbD 3 = b.getLsbD 3 := by
    rw [BitVec.getLsbD_and]
    exact Bool.and_true _
  unfold Mfp.write
  dsimp only
  rw [stored]
  split <;> rfl

/-- Settles O28: the vector write by its S bit; every other write is one register's, or two. -/
theorem interruptAndStorageWrites : Obligations.InterruptAndStorageWrites := fun s b =>
  ⟨rfl, rfl, rfl, rfl, rfl, rfl, rfl, rfl, exec_mfpWrite .vr (s.mfp.write_vr b), rfl, rfl, rfl, rfl, rfl, rfl, rfl, rfl⟩

/-! ## The window (43 R247, 30 R105) -/

theorem MfpReg.offset_of_ofOffset {off : BitVec 6} {r : MfpReg} (h : MfpReg.ofOffset off = some r) : r.offset = off :=
  beq_iff_eq.1 (List.find?_some (p := fun r : MfpReg => r.offset == off) h)

/-- An even offset and an offset past the last register name none. -/
theorem MfpReg.ofOffset_eq_none_iff :
    ∀ {off : BitVec 6}, MfpReg.ofOffset off = none ↔ off.getLsbD 0 = false ∨ 0x30 ≤ off.toNat := by decide

theorem even_toNat {w : Nat} {x : BitVec w} (h : x.getLsbD 0 = false) : x.toNat % 2 = 0 := by
  have := odd_toNat x
  rw [h, beq_eq_false_iff_ne] at this
  omega

/-- The odd offset after an even one stays inside the window. -/
theorem toNat_succ_of_even {off : BitVec 6} (h : off.getLsbD 0 = false) : (off + 1).toNat = off.toNat + 1 := by
  have heven := even_toNat h
  have hoff := off.isLt
  rw [BitVec.toNat_add]
  exact Nat.mod_eq_of_lt (show off.toNat + 1 < 2 ^ 6 by omega)

/-- The table has all ones where no register is. -/
theorem mfpByteAt_noRegister (g : Byte) (m : Mfp) {off : Nat} (h : off % 2 = 0 ∨ 0x30 ≤ off) :
    mfpByteAt g m off = 0xFF := by
  unfold mfpByteAt
  split
  case h_25 => rfl
  all_goals omega

/-- The window reads as 43 R247 tables it. -/
theorem Mfp.read8_eq_mfpByteAt (g : Byte) (m : Mfp) (off : BitVec 6) : m.read8 g off = mfpByteAt g m off.toNat := by
  unfold Mfp.read8
  cases h : MfpReg.ofOffset off with
  | some r =>
    rw [← MfpReg.offset_of_ofOffset h]
    cases r <;> rfl
  | none => exact (mfpByteAt_noRegister g m ((MfpReg.ofOffset_eq_none_iff.1 h).imp even_toNat id)).symm

theorem Mfp.write8_noRegister {off : BitVec 6} (h : MfpReg.ofOffset off = none) (m : Mfp) (b : Byte) :
    m.write8 off b = m := by
  unfold Mfp.write8
  rw [h]

theorem Mfp.write8_register (r : MfpReg) (m : Mfp) (b : Byte) : m.write8 r.offset b = m.write r b := by
  unfold Mfp.write8
  rw [MfpReg.ofOffset_offset]

theorem exec_mfpRdB (off : BitVec 6) (s : State) :
    exec (.mfpRdB off) s = .next (s.withBus (.byte (s.mfp.read8 s.params.gpipIn off))) := rfl

theorem exec_mfpRdW (off : BitVec 6) (s : State) :
    exec (.mfpRdW off) s = .next (s.withBus (.word ((0xFF : Byte) ++ s.mfp.read8 s.params.gpipIn (off + 1)))) := rfl

theorem exec_mfpWrW (off : BitVec 6) (w : Half) (s : State) :
    exec (.mfpWrW off w) s = .next (s.withMfp (s.mfp.write8 (off + 1) (w.extractLsb' 0 8))) := rfl

/-- Settles O29: reads by the table, writes by the register at the odd offset, if there is one. -/
theorem timerWindow : Obligations.TimerWindow := by
  intro s off b w
  refine ⟨?_, fun heven => ?_, rfl, fun r heven hr => ?_, fun heven hpast => ?_, fun h => ?_⟩
  · rw [exec_mfpRdB, Mfp.read8_eq_mfpByteAt]
    rfl
  · rw [exec_mfpRdW, Mfp.read8_eq_mfpByteAt, toNat_succ_of_even heven]
    rfl
  · have hoff : off + 1 = r.offset := BitVec.eq_of_toNat_eq ((toNat_succ_of_even heven).trans hr)
    rw [exec_mfpWrW, hoff, Mfp.write8_register, exec_mfpWriteRow]
    exact ⟨rfl, _, rfl⟩
  · have none : MfpReg.ofOffset (off + 1) = none :=
      MfpReg.ofOffset_eq_none_iff.2 (.inr (by rw [toNat_succ_of_even heven]; omega))
    rw [exec_mfpWrW, Mfp.write8_noRegister none]
    rfl
  · exact decodeEncodeRoundTrip (.mfpWrDropB off b) (Option.isNone_iff_eq_none.2 (MfpReg.ofOffset_eq_none_iff.2 h))

end Sys2Proof.Machine
end

section
/-! The counting, the interrupts and the commands of the timer unit (43_timer R240 to R245, R260 to R263). A run
of decrements is followed down to the time-out (`Mfp.times_decrement_below`, `Mfp.times_decrement_timeout`), and
the pending and in-service views are read channel by channel (`setChannel_bit`, `clearChannel_bit`). -/

namespace Sys2Proof.Machine

open Sys2Proof

/-! ## Modes, prescalers and the gate (43 R240, R262) -/

theorem prescaleOf_eq_prescaleList (n : Nat) : Config.prescaleOf n = prescaleList.getD n 0 :=
  match n with
  | 0 | 1 | 2 | 3 | 4 | 5 | 6 | 7 | _ + 8 => rfl

/-- The mode of a timer as a number: its field of the control register. -/
theorem Mfp.timerMode_eq (m : Mfp) (t : Timer) :
    m.timerMode t = match t with
      | .a => m.tacr.toNat % 16
      | .b => m.tbcr.toNat % 16
      | .c => m.tcdcr.toNat / 16 % 8
      | .d => m.tcdcr.toNat % 8 := by
  cases t <;> simp only [Mfp.timerMode, BitVec.extractLsb'_toNat, Nat.shiftRight_eq_div_pow, Nat.pow_zero, Nat.div_one]

theorem Mfp.tick_eq (rate : Nat) (m : Mfp) (t : Timer) :
    m.tick rate t =
      if m.prescale t = 0 then m
      else
        { times (fun m => m.decrement t) ((m.tacc.get t + 2457600) / (m.prescale t * rate)) m with
          tacc := m.tacc.set t ((m.tacc.get t + 2457600) % (m.prescale t * rate)) } := by
  unfold Mfp.tick Mfp.countdown Mfp.countdownTurns
  rw [mfpClock_eq]

theorem Mfp.gate_eq (g : Bool) (m : Mfp) (t : Timer) :
    m.gate g t = (!g || decide (m.isr.toNat / 2 ^ channel t = 0)) := by
  rw [Bool.eq_iff_iff, Mfp.gate_iff]
  cases g <;> simp

theorem exec_timerTick {s : State} (h : s.ready) (t : Timer) :
    exec (.cmdTimerTick t) s =
      .next ((s.withMfp (s.mfp.tick s.hostRate t)).answer .ok
        (.fired ((s.mfp.tick s.hostRate t).signal s.params.isrGating t))) := by
  show execCmdTimerTick t s = _
  unfold execCmdTimerTick
  rw [State.command_ready h]
  rfl

/-- Settles O30: the tick by its prescaler, and the signal of the unit it leaves. -/
theorem timerTickCountsDown : Obligations.TimerTickCountsDown := by
  intro s t hs mode P m gate
  have prescale : s.mfp.prescale t = P :=
    (prescaleOf_eq_prescaleList _).trans (congrArg (prescaleList.getD · 0) (s.mfp.timerMode_eq t))
  have ticked : s.mfp.tick s.hostRate t = m := by rw [Mfp.tick_eq, prescale]
  have gated : m.gate s.params.isrGating t = gate := Mfp.gate_eq _ m t
  rw [exec_timerTick hs, ticked, Mfp.signal, gated]
  rfl

/-! ## Down to the time-out (43 R243, R244) -/

theorem PerTimer.set_get_self {α : Type} (p : PerTimer α) (t : Timer) : p.set t (p.get t) = p := by
  cases t <;> rfl

theorem PerTimer.set_set_same {α : Type} (p : PerTimer α) (t : Timer) (x y : α) : (p.set t x).set t y = p.set t y := by
  cases t <;> rfl

/-- Above 1 a count-down step only lowers the counter. -/
theorem Mfp.decrement_lower {m : Mfp} {t : Timer} (h : m.cnt.get t ≠ 1) :
    m.decrement t = { m with cnt := m.cnt.set t (m.cnt.get t - 1) } :=
  ((m.decrement_cases t).resolve_left fun low => h low.1).2

/-- At 1 it reloads the counter and times out. -/
theorem Mfp.decrement_timeout {m : Mfp} {t : Timer} (h : m.cnt.get t = 1) :
    m.decrement t = Mfp.timeout { m with cnt := m.cnt.set t (reload (m.data t)) } t :=
  ((m.decrement_cases t).resolve_right fun high => high.1 h).2

/-- Fewer decrements than the counter's value only lower it. -/
theorem Mfp.times_decrement_below {m : Mfp} {t : Timer} {n : Nat} (h : n < m.cnt.get t) :
    times (fun m => m.decrement t) n m = { m with cnt := m.cnt.set t (m.cnt.get t - n) } := by
  induction n with
  | zero => rw [Nat.sub_zero, PerTimer.set_get_self]; rfl
  | succ n ih =>
    have high : (m.cnt.set t (m.cnt.get t - n)).get t ≠ 1 := by
      rw [PerTimer.get_set_same]
      omega
    rw [times_succ, ih (by omega), Mfp.decrement_lower high]
    simp only [PerTimer.get_set_same, PerTimer.set_set_same, Nat.sub_sub]

/-- As many decrements as the counter's value reload it, and time out once. -/
theorem Mfp.times_decrement_timeout {m : Mfp} {t : Timer} (h : 1 ≤ m.cnt.get t) :
    times (fun m => m.decrement t) (m.cnt.get t) m =
      Mfp.timeout { m with cnt := m.cnt.set t (reload (m.data t)) } t := by
  obtain ⟨k, hk⟩ : ∃ k, m.cnt.get t = k + 1 := ⟨_, (Nat.sub_add_cancel h).symm⟩
  have last : (m.cnt.set t (m.cnt.get t - k)).get t = 1 := by
    rw [PerTimer.get_set_same]
    omega
  rw [hk, times_succ, Mfp.times_decrement_below (by omega), Mfp.decrement_timeout last, PerTimer.set_set_same]
  cases t <;> rfl

/-! ## The interrupt views, channel by channel (43 R244, R263) -/

theorem channel_lt (t : Timer) : channel t < 16 := by cases t <;> decide

/-- The bit of a channel stands in its own place only. -/
theorem channelBit_getLsbD (t : Timer) (k : Nat) : ((1 : Half) <<< channel t).getLsbD k = decide (k = channel t) := by
  have h : ((1 : Half) <<< channel t).getLsbD k = (decide (channel t < 16) && decide (channel t = k)) :=
    BitVec.getLsbD_twoPow _ _
  rw [h, decide_eq_true (channel_lt t), Bool.true_and, decide_eq_decide]
  exact eq_comm

theorem setChannel_bit (v : Half) (t : Timer) (k : Nat) :
    (setChannel v (channel t)).getLsbD k = (v.getLsbD k || decide (k = channel t)) := by
  unfold setChannel
  rw [BitVec.getLsbD_or, channelBit_getLsbD]

theorem clearChannel_bit (v : Half) (t : Timer) (k : Nat) :
    (clearChannel v (channel t)).getLsbD k = (v.getLsbD k && decide (k ≠ channel t)) := by
  unfold clearChannel
  rw [BitVec.getLsbD_and, BitVec.getLsbD_not, channelBit_getLsbD, decide_not]
  by_cases inside : k < 16
  · rw [decide_eq_true inside, Bool.true_and]
  · rw [BitVec.getLsbD_of_ge v k (Nat.le_of_not_lt inside), Bool.false_and, Bool.false_and]

theorem Mfp.withIpr_ipr (m : Mfp) (v : Half) : (m.withIpr v).ipr = v := hiByte_loByte v

theorem Mfp.withIsr_isr (m : Mfp) (v : Half) : (m.withIsr v).isr = v := hiByte_loByte v

/-- A time-out changes the pending registers only. -/
theorem Mfp.timeout_frame (m : Mfp) (t : Timer) :
    m.timeout t = { m with ipra := (m.timeout t).ipra, iprb := (m.timeout t).iprb } := by
  rw [Mfp.timeout_eq]
  split <;> rfl

theorem Mfp.timeout_ipr (m : Mfp) (t : Timer) (c : Nat) :
    (m.timeout t).ipr.getLsbD c =
      (m.ipr.getLsbD c || (decide (c = channel t) && m.ier.getLsbD (channel t))) := by
  unfold Mfp.timeout
  cases m.ier.getLsbD (channel t) with
  | true => rw [if_pos rfl, Mfp.withIpr_ipr, setChannel_bit, Bool.and_true]
  | false => rw [if_neg Bool.false_ne_true, Bool.and_false, Bool.or_false]

/-- Settles O31: the decrements before the last only lower the counter, and the last one times out. -/
theorem countdownReachesTimeout : Obligations.CountdownReachesTimeout := by
  intro rate m t n hinv
  refine ⟨Mfp.times_decrement_below, ?_⟩
  rw [Mfp.times_decrement_timeout (hinv.cnt t).1]
  generalize hk : ({ m with cnt := m.cnt.set t (reload (m.data t)) } : Mfp) = k
  have frame := k.timeout_frame t
  have bits := k.timeout_ipr t
  have counter : (k.timeout t).cnt = m.cnt.set t (reload (m.data t)) := by rw [frame, ← hk]
  refine ⟨?_, fun u hu => ?_, fun c => ?_, ?_⟩
  · rw [counter, PerTimer.get_set_same]
    rfl
  · rw [counter, PerTimer.get_set_other _ hu]
  · rw [bits, ← hk]
    rfl
  · rw [counter]
    conv_lhs => rw [frame]
    rw [← hk]

/-! ## Events and acknowledges (43 R245, R261, R263) -/

theorem exec_timerEvent {s : State} (h : s.ready) (t : Timer) :
    exec (.cmdTimerEvent t) s = .next ((s.withMfp (s.mfp.event t)).answer .ok .none) := by
  show execCmdTimerEvent t s = _
  unfold execCmdTimerEvent
  rw [State.command_ready h]

theorem exec_timerAcknowledge {s : State} (h : s.ready) (t : Timer) :
    exec (.cmdTimerAcknowledge t) s = .next ((s.withMfp (s.mfp.acknowledge t)).answer .ok .none) := by
  show execCmdTimerAcknowledge t s = _
  unfold execCmdTimerAcknowledge
  rw [State.command_ready h]

/-- An acknowledge changes the pending and the in-service registers only. -/
theorem Mfp.acknowledge_frame (m : Mfp) (t : Timer) :
    let k := m.acknowledge t
    k = { m with ipra := k.ipra, iprb := k.iprb, isra := k.isra, isrb := k.isrb } := by
  rw [Mfp.acknowledge_eq]

theorem Mfp.acknowledge_ipr (m : Mfp) (t : Timer) : (m.acknowledge t).ipr = clearChannel m.ipr (channel t) := by
  unfold Mfp.acknowledge
  dsimp only
  split
  · exact m.withIpr_ipr _
  · exact m.withIpr_ipr _

theorem Mfp.acknowledge_isr (m : Mfp) (t : Timer) :
    (m.acknowledge t).isr = if m.vr.getLsbD 3 = true then setChannel m.isr (channel t) else m.isr := by
  unfold Mfp.acknowledge
  dsimp only
  split
  · exact Mfp.withIsr_isr _ _
  · rfl

/-- Settles O32: the event by its timer and mode, the acknowledge by its two views. -/
theorem timerEventAndAcknowledge : Obligations.TimerEventAndAcknowledge := by
  intro s t hs
  refine ⟨?_, _, exec_timerAcknowledge hs t, s.mfp.acknowledge_frame t, fun c => ⟨?_, ?_⟩⟩
  · rw [exec_timerEvent hs, Mfp.event, Mfp.timerMode_eq]
    rfl
  · rw [Mfp.acknowledge_ipr, clearChannel_bit]
  · rw [Mfp.acknowledge_isr]
    cases s.mfp.vr.getLsbD 3 with
    | true => rw [if_pos rfl, setChannel_bit, Bool.and_true]
    | false => rw [if_neg Bool.false_ne_true, Bool.and_false, Bool.or_false]

end Sys2Proof.Machine
end

section
/-! The dispatch of a timer (45 R340, R362, 43 R264): RAM after a run has been entered, read through the frame
and the vector. -/

namespace Sys2Proof.Machine

open Sys2Proof

/-- RAM when a run begins: the return frame of its path, then the vector (45 R340). -/
def Memory.runEntered (m : Memory) (p : Path) (entry : Addr) : Memory := (m.pushFrame p).setVector (frameBase p) entry

theorem Memory.read_runEntered_other (m : Memory) (p : Path) (entry : Addr) {a : Nat} (h8 : 8 ≤ a)
    (h : a < frameBase p ∨ 0x10000 ≤ a) : (m.runEntered p entry).read a = m.read a :=
  (Memory.read_setVector _ _ _ h8).trans (m.read_pushFrame_other p h)

/-- The vector of a run is where the pulse reads it. -/
theorem Memory.runEntered_vector {m : Memory} (h : m.wf = true) (p : Path) (entry : Addr) :
    (m.runEntered p entry).read32 0 = BitVec.ofNat 32 (frameBase p) ∧
      (m.runEntered p entry).read32 4 = entry.setWidth 32 :=
  Memory.vector_reads (Memory.wf_pushFrame h p) _ _

/-- The vector leaves the RTE frame. -/
theorem Memory.runEntered_frame_rte {m : Memory} (h : m.wf = true) (entry : Addr) :
    (m.runEntered .rte entry).read16 0xFFFA = 0x2700 ∧ (m.runEntered .rte entry).read32 0xFFFC = 0x502 := by
  obtain ⟨hsr, hpc⟩ := Memory.frame_rte h
  exact ⟨(Memory.read16_congr fun k hk _ => Memory.read_setVector _ _ _ (by omega)).trans hsr,
    (Memory.read32_congr fun k hk _ => Memory.read_setVector _ _ _ (by omega)).trans hpc⟩

/-- Entering a handler only tells the PSG that it is inside: edges are reset when it ends. -/
theorem Psg.insideTimerIrq_enter (p : Psg) : p.insideTimerIrq true = { p with inside := true } := by
  unfold Psg.insideTimerIrq
  rw [Bool.not_true, Bool.and_false]
  rfl

/-- What a dispatch changes. -/
theorem State.dispatch_eq (s : State) (t : Timer) (c : Caller) :
    s.dispatch t c =
      let m := s.mem.runEntered .rte ((s.mem.read32 (vectorTable t)).setWidth 24)
      { s with
        mfp := s.mfp.acknowledge t, psg := { s.psg with inside := true }, busy := true, exit := .none, exitInfo := 0,
        mem := m, run := ⟨c, 1⟩, cpu := ⟨m.read32 0, m.read32 4, 0x2700, none⟩,
        out := { s.out with result := .pending, value := .none } } := by
  rw [← vectorAddr_eq, ← Psg.insideTimerIrq_enter]
  rfl

/-- Settles O42: the parts of the state a dispatch leaves, and RAM through the frame and the vector. -/
theorem dispatchEntersHandler : Obligations.DispatchEntersHandler := by
  intro s t c hmem d
  have hd : d = _ := s.dispatch_eq t c
  clear_value d
  subst hd
  generalize ((s.mem.read32 (vectorTable t)).setWidth 24 : Addr) = entry
  obtain ⟨hsp, hpc⟩ := Memory.runEntered_vector hmem .rte entry
  obtain ⟨hsr, hret⟩ := Memory.runEntered_frame_rte hmem entry
  dsimp only
  rw [hsp, hpc]
  exact ⟨rfl, rfl, rfl, rfl, rfl, rfl, rfl, rfl, rfl, rfl, hsr, hret,
    fun _ h8 h => s.mem.read_runEntered_other .rte entry h8 h⟩

end Sys2Proof.Machine
end

section
/-! The registers and the window of the DMA unit (44_dma R300 to R305, 30_encoding R106). Frame bounds and read
values are put in the bytes the spec writes them in (`withHigh_eq_bytes`, `Dma.read8_eq_dmaByteAt`); a write in the
window goes through the register an offset names (`DmaReg.ofOffset_offset`, `DmaReg.ofOffset_eq_none_iff`). -/

namespace Sys2Proof.Machine

open Sys2Proof

/-- The row of a register performs the register's write. -/
theorem exec_dmaWrite {s : State} {b : Byte} {d : Dma} (r : DmaReg) (h : s.dma.write r b = d) :
    exec (dmaWriteRow b r) s = .next { s with dma := d } := by
  rw [exec_dmaWriteRow, h]
  rfl

/-! ## Frame bounds (44 R301) -/

theorem withHigh_eq_bytes (f : BitVec 22) (b : Byte) :
    withHigh f b = b.extractLsb' 0 6 ++ f.extractLsb' 8 8 ++ f.extractLsb' 0 8 := by
  rw [BitVec.append_assoc, BitVec.extractLsb'_append_extractLsb'_eq_extractLsb' (show 8 = 0 + 8 from rfl)]
  rfl

theorem withLow_eq_bytes (f : BitVec 22) (b : Byte) :
    withLow f b = f.extractLsb' 16 6 ++ f.extractLsb' 8 8 ++ b.extractLsb' 1 7 ++ (0 : BitVec 1) := by
  rw [BitVec.extractLsb'_append_extractLsb'_eq_extractLsb' (show 16 = 8 + 8 from rfl)]
  rfl

/-- Settles O33: a frame byte between the bytes it leaves; every other write stores what it is given. -/
theorem dmaRegisterWrites : Obligations.DmaRegisterWrites := by
  intro s b w start last
  have high (f : BitVec 22) := withHigh_eq_bytes f b
  have low (f : BitVec 22) := withLow_eq_bytes f b
  exact ⟨exec_dmaWrite .startH (congrArg (fun f => { s.dma with frameStart := f }) (high start)), rfl,
    exec_dmaWrite .startL (congrArg (fun f => { s.dma with frameStart := f }) (low start)),
    exec_dmaWrite .endH (congrArg (fun f => { s.dma with frameEnd := f }) (high last)), rfl,
    exec_dmaWrite .endL (congrArg (fun f => { s.dma with frameEnd := f }) (low last)),
    rfl, rfl, rfl, rfl, rfl, rfl, rfl⟩

/-! ## The control register (44 R302) -/

/-- A latch copies the bounds and points at the start (44 R291). -/
theorem Dma.latch_eq (d : Dma) :
    d.latch = { d with
      curStart := d.frameStart, curEnd := d.frameEnd, ptr := BitVec.ofNat 24 d.frameStart.toNat } := by
  rw [BitVec.ofNat_toNat]
  rfl

theorem Dma.writeCtrl_eq (d : Dma) (b : Byte) :
    d.writeCtrl b =
      if d.ctrl.getLsbD 0 = false ∧ b.getLsbD 0 = true then { d.latch with ctrl := b.extractLsb' 0 2, dacc := 0 }
      else { d with ctrl := b.extractLsb' 0 2 } :=
  if_congr (by simp) rfl rfl

/-- Settles O34: the latch of a rising play bit, in its fields. -/
theorem dmaControlWrite : Obligations.DmaControlWrite := fun s b =>
  exec_dmaWrite .ctrl (by rw [Dma.write, Dma.writeCtrl_eq, Dma.latch_eq])

/-! ## The window (44 R303, R305) -/

/-- An offset names no register exactly when 30 R106 lists none there. -/
theorem DmaReg.ofOffset_eq_none_iff : ∀ {off : BitVec 6}, DmaReg.ofOffset off = none ↔
    off.toNat ∉ [0x01, 0x03, 0x05, 0x07, 0x0F, 0x11, 0x13, 0x21, 0x22, 0x23, 0x24, 0x25] := by decide

/-- The high byte of an address has its six bits below two zeros. -/
theorem highByte_eq (f : BitVec 22) : highByte f = (0 : BitVec 2) ++ f.extractLsb' 16 6 :=
  BitVec.setWidth_eq_append (by decide)

/-- The window reads as 44 R303 tables it. -/
theorem Dma.read8_eq_dmaByteAt (d : Dma) (off : BitVec 6) : d.read8 off = dmaByteAt d off.toNat := by
  have ctrl : d.ctrl.setWidth 8 = (0 : BitVec 6) ++ d.ctrl := BitVec.setWidth_eq_append (by decide)
  have counter {k n : Nat} (h : k + n ≤ 22) : (d.ptr.setWidth 22).extractLsb' k n = d.ptr.extractLsb' k n :=
    BitVec.extractLsb'_setWidth_of_le h
  unfold Dma.read8 dmaByteAt
  simp only [ctrl, highByte_eq, midByte, lowByte, counter (show 16 + 6 ≤ 22 by decide),
    counter (show 8 + 8 ≤ 22 by decide), counter (show 0 + 8 ≤ 22 by decide)] <;> rfl

theorem Dma.read16_eq_dmaByteAt {off : BitVec 6} (heven : off.getLsbD 0 = false) (d : Dma) :
    d.read16 off =
      if off.toNat = 0x22 then d.mwData
      else if off.toNat = 0x24 then d.mwMask
      else (0xFF : Byte) ++ dmaByteAt d (off.toNat + 1) := by
  rw [← toNat_succ_of_even heven, ← Dma.read8_eq_dmaByteAt]
  exact if_congr (BitVec.toNat_inj (y := 0x22)).symm rfl (if_congr (BitVec.toNat_inj (y := 0x24)).symm rfl rfl)

theorem Dma.write8_noRegister {off : BitVec 6} (h : DmaReg.ofOffset off = none) (d : Dma) (b : Byte) :
    d.write8 off b = d := by
  unfold Dma.write8
  rw [h]

theorem Dma.write8_register (r : DmaReg) (d : Dma) (b : Byte) : d.write8 r.offset b = d.write r b := by
  unfold Dma.write8
  rw [DmaReg.ofOffset_offset]

theorem exec_dmaRdB (off : BitVec 6) (s : State) :
    exec (.dmaRdB off) s = .next (s.withBus (.byte (s.dma.read8 off))) := rfl

theorem exec_dmaRdW (off : BitVec 6) (s : State) :
    exec (.dmaRdW off) s = .next (s.withBus (.word (s.dma.read16 off))) := rfl

/-- A word beside the microwire registers is a byte write at the odd offset. -/
theorem exec_dmaWrW {off : BitVec 6} (hdata : off.toNat ≠ 0x22) (hmask : off.toNat ≠ 0x24) (w : Half) (s : State) :
    exec (.dmaWrW off w) s = .next (s.withDma (s.dma.write8 (off + 1) (w.extractLsb' 0 8))) := by
  show Host.Outcome.next (s.withDma (s.dma.write16 off w)) = _
  unfold Dma.write16
  rw [if_neg fun h => hdata (congrArg BitVec.toNat h), if_neg fun h => hmask (congrArg BitVec.toNat h)]
  rfl

/-- Settles O35: reads by the table, writes by the register at the odd offset, if there is one. -/
theorem dmaWindow : Obligations.DmaWindow := by
  intro s off b w
  refine ⟨?_, fun heven => ?_, rfl, fun r heven hdata hmask hr => ?_, fun heven hno => ?_, fun h => ?_⟩
  · rw [exec_dmaRdB, Dma.read8_eq_dmaByteAt]
    rfl
  · rw [exec_dmaRdW, Dma.read16_eq_dmaByteAt heven]
    rfl
  · have hoff : off + 1 = r.offset := BitVec.eq_of_toNat_eq ((toNat_succ_of_even heven).trans hr)
    rw [exec_dmaWrW hdata hmask, hoff, Dma.write8_register, exec_dmaWriteRow]
    exact ⟨rfl, _, rfl⟩
  · have even := even_toNat heven
    simp only [List.mem_cons, List.not_mem_nil, or_false, not_or] at hno
    have none : DmaReg.ofOffset (off + 1) = none := DmaReg.ofOffset_eq_none_iff.2 (by
      rw [toNat_succ_of_even heven]
      simp only [List.mem_cons, List.not_mem_nil, or_false, not_or]
      omega)
    rw [exec_dmaWrW (by omega) (by omega), Dma.write8_noRegister none]
    rfl
  · exact decodeEncodeRoundTrip (.dmaWrDropB off b) (Option.isNone_iff_eq_none.2 (DmaReg.ofOffset_eq_none_iff.2 h))

end Sys2Proof.Machine
end

section
/-! The samples of the DMA unit (44_dma R290, R310 to R314). A sample is its value and the advances that its time
pays for, one after the other (`dmaSample_playing`), each of them in the spec's terms (`Dma.advanceOnce_eq`). -/

namespace Sys2Proof.Machine

open Sys2Proof

/-! ## One sample (44 R290, R310, R312) -/

theorem dmaSample_stopped {d : Dma} (h : d.playing = false) (rate : Nat) (mem : Memory) (m : Mfp) :
    dmaSample rate mem d m = ((d, m), 0) :=
  if_neg (Bool.eq_false_iff.1 h)

/-- A playing unit answers the frame at its pointer, and advances once for each whole sample of its time. -/
theorem dmaSample_playing {d : Dma} (h : d.playing = true) (rate : Nat) (mem : Memory) (m : Mfp) :
    dmaSample rate mem d m =
      let y := times Dma.advanceOnce ((d.dacc + d.rate) / rate) (d, m)
      ((y.1.carrying (if y.1.playing = true then (d.dacc + d.rate) % rate else 0), y.2), d.frameValue mem * 64) := by
  dsimp only
  rw [Nat.mod_eq_sub_div_mul, ← dmaAdvance_eq_times rate _ d m _ h]
  exact if_pos h

theorem Dma.rate_eq (d : Dma) : d.rate = [6258, 12517, 25033, 50066].getD (d.mode.toNat % 4) 0 := by
  have field : (d.mode.extractLsb' 0 2).toNat = d.mode.toNat % 4 := BitVec.extractLsb'_toNat 0 2 d.mode
  unfold Dma.rate
  rw [← field]
  generalize d.mode.extractLsb' 0 2 = r
  revert r
  decide

/-- The frame at the pointer, in the bytes it is made of. -/
theorem Dma.frameValue_eq (mem : Memory) (d : Dma) :
    d.frameValue mem * 64 =
      if d.mode.getLsbD 7 = true then (dmaFetch mem d.ptr.toNat).toInt * 64
      else ((dmaFetch mem d.ptr.toNat).toInt + (dmaFetch mem (d.ptr.toNat + 1)).toInt) / 2 * 64 := by
  unfold Dma.frameValue Dma.mono
  exact ite_mul ..

theorem dmaFetch_toInt (mem : Memory) (a : Nat) :
    (dmaFetch mem a).toInt = if a < 0x400000 then (mem.read a).toInt else 0 :=
  apply_ite BitVec.toInt ..

/-- The command on a playing unit: the advances that its time pays for, and the time c they leave over. -/
theorem exec_dmaSample_playing {s : State} (hs : s.ready) (hplay : s.dma.playing = true) {n c : Nat} {y : Dma × Mfp}
    (hn : (s.dma.dacc + s.dma.rate) / s.hostRate = n) (hy : times Dma.advanceOnce n (s.dma, s.mfp) = y)
    (hc : (if y.1.playing = true then (s.dma.dacc + s.dma.rate) % s.hostRate else 0) = c) :
    exec .cmdDmaComputeNextSample s =
      .next ({ s with dma := y.1.carrying c, mfp := y.2 }.answer .ok (.sample (s.dma.frameValue s.mem * 64))) := by
  subst hn hy hc
  rw [exec_dmaSample hs, dmaSample_playing hplay]
  rfl

/-- Settles O36: the answer of a sample by the play bit, its value by the fetched bytes. -/
theorem dmaSampleValue : Obligations.DmaSampleValue := by
  intro s hs
  refine ⟨fun hstop => ?_, fun hplay => ?_⟩
  · rw [exec_dmaSample hs, dmaSample_stopped hstop]
    rfl
  · have answer := exec_dmaSample_playing hs hplay rfl rfl rfl
    rw [Dma.frameValue_eq, dmaFetch_toInt, dmaFetch_toInt] at answer
    exact ⟨_, _, answer⟩

/-! ## The advances of one sample (44 R310, R311, R313) -/

/-- Functions that agree where P holds, and keep it, agree on their iterates. -/
theorem times_congr {α : Type} {P : α → Prop} {f g : α → α} (hP : ∀ x, P x → P (f x))
    (h : ∀ x, P x → f x = g x) (n : Nat) {x : α} (hx : P x) : times f n x = times g n x := by
  induction n generalizing x with
  | zero => rfl
  | succ n ih =>
    show times f n (f x) = times g n (g x)
    rw [← h x hx]
    exact ih (hP x hx)

/-- The unit with its pointer k bytes on. -/
def Dma.forward (d : Dma) (k : Nat) : Dma := { d with ptr := BitVec.ofNat 24 (d.ptr.toNat + k) }

theorem Dma.moved_eq_forward (d : Dma) : d.moved = d.forward d.frameSize := by
  unfold Dma.forward
  rw [BitVec.ofNat_add, BitVec.ofNat_toNat, BitVec.setWidth_eq]
  rfl

/-- Without the loop bit, clearing the play bit clears the register. -/
theorem ctrl_stopped_of_oneShot : ∀ {c : BitVec 2}, c.getLsbD 1 = false → c &&& 2 = 0 := by decide

theorem Dma.endOfFrame_eq (d : Dma) :
    d.endOfFrame = if d.ctrl.getLsbD 1 = true then d.latch else { d with ctrl := 0 } := by
  unfold Dma.endOfFrame
  refine ite_congr rfl (fun _ => rfl) fun hloop => ?_
  rw [ctrl_stopped_of_oneShot (Bool.eq_false_of_not_eq_true hloop)]

theorem Dma.endOfFrame_frameSize (d : Dma) : d.endOfFrame.frameSize = d.frameSize := by
  unfold Dma.endOfFrame
  split <;> rfl

/-- An advance in the spec's terms. -/
theorem Dma.advanceOnce_eq (x : Dma × Mfp) :
    Dma.advanceOnce x =
      let next := BitVec.ofNat 24 (x.1.ptr.toNat + x.1.frameSize)
      if x.1.ctrl.getLsbD 0 = false then x
      else if next.toNat < x.1.curEnd.toNat then ({ x.1 with ptr := next }, x.2)
      else if x.1.ctrl.getLsbD 1 = true then
        ({ x.1 with
            curStart := x.1.frameStart
            curEnd := x.1.frameEnd
            ptr := BitVec.ofNat 24 x.1.frameStart.toNat }, x.2.event .a)
      else ({ x.1 with ptr := next, ctrl := 0 }, x.2.event .a) := by
  dsimp only
  unfold Dma.advanceOnce
  rw [Dma.endOfFrame_eq, Dma.latch_eq, Dma.moved_eq_forward]
  refine ite_congr rfl (fun _ => rfl) fun _ => ?_
  by_cases hin : (x.1.forward x.1.frameSize).ptr.toNat < x.1.curEnd.toNat
  · exact (if_neg (Nat.not_le.2 hin)).trans (if_pos hin).symm
  · refine (if_pos (Nat.not_lt.1 hin)).trans (Eq.trans ?_ (if_neg hin).symm)
    exact apply_ite (fun d => (d, x.2.event .a)) _ _ _

/-- No advance touches the mode, so the frames of a sample have one size. -/
theorem Dma.advanceOnce_frameSize (x : Dma × Mfp) : (Dma.advanceOnce x).1.frameSize = x.1.frameSize := by
  unfold Dma.advanceOnce
  split
  · rfl
  split
  · exact x.1.moved.endOfFrame_frameSize
  · rfl

/-- Settles O37: the advances of the spec are those of the unit, all in frames of one size. -/
theorem dmaPointerAdvance : Obligations.DmaPointerAdvance := by
  intro s hs hinv hplay rate size acc moved advance
  have hacc : s.dma.dacc + s.dma.rate = acc := congrArg _ s.dma.rate_eq
  have hadvances (n : Nat) : times Dma.advanceOnce n (s.dma, s.mfp) = times advance n (s.dma, s.mfp) :=
    times_congr (P := fun x => x.1.frameSize = size) (fun x hx => (Dma.advanceOnce_frameSize x).trans hx)
      (fun x hx => by rw [Dma.advanceOnce_eq, hx]) n rfl
  have hmoved : moved.toNat = s.dma.ptr.toNat + size :=
    (congrArg (fun d => d.ptr.toNat) s.dma.moved_eq_forward).symm.trans (ptr_advance hinv.2 hplay)
  have hone : times Dma.advanceOnce 1 (s.dma, s.mfp) = _ := (hadvances 1).trans (if_neg (by rw [hplay]; decide))
  have sample := @exec_dmaSample_playing s hs hplay
  rw [hacc] at sample
  have single (hmin : s.hostRate ≤ acc) (hmax : acc < 2 * s.hostRate) : acc / s.hostRate = 1 :=
    Nat.div_eq_of_lt_le (by omega) (by omega)
  have rest (hmin : s.hostRate ≤ acc) (hmax : acc < 2 * s.hostRate) : acc % s.hostRate = acc - s.hostRate := by
    rw [Nat.mod_eq_sub_div_mul, single hmin hmax, Nat.one_mul]
  refine ⟨_, fun h => ?_, fun hmin hmax hin => ?_, fun hmin hmax hend => ?_, sample rfl (hadvances _) rfl⟩
  · exact sample (Nat.div_eq_of_lt h) rfl ((if_pos hplay).trans (Nat.mod_eq_of_lt h))
  · rw [← hmoved] at hin
    exact sample (single hmin hmax) (hone.trans (if_pos hin)) ((if_pos hplay).trans (rest hmin hmax))
  · rw [← hmoved, ← Nat.not_lt] at hend
    split_ifs with hloop
    · exact sample (single hmin hmax) (hone.trans ((if_neg hend).trans (if_pos hloop)))
        ((if_pos hplay).trans (rest hmin hmax))
    · exact sample (single hmin hmax) (hone.trans ((if_neg hend).trans (if_neg hloop)))
        (if_neg (show ¬ (0 : BitVec 2).getLsbD 0 = true by decide))

/-! ## A frame at the host's own rate (44 R314) -/

/-- A unit in a one-shot mono frame with n bytes to go, at the host's own rate. -/
structure Dma.OneShot (rate n : Nat) (d : Dma) : Prop where
  positive : 1 ≤ rate
  rate     : d.rate = rate
  mono     : d.mode.getLsbD 7 = true
  ctrl     : d.ctrl = 1
  dacc     : d.dacc = 0
  bytes    : d.ptr.toNat + n = d.curEnd.toNat

theorem Dma.forward_zero (d : Dma) : d.forward 0 = d := by
  unfold Dma.forward
  rw [Nat.add_zero, BitVec.ofNat_toNat, BitVec.setWidth_eq]

theorem Dma.OneShot.playing {rate n : Nat} {d : Dma} (h : d.OneShot rate n) : d.playing = true := by
  unfold Dma.playing
  rw [h.ctrl]
  rfl

theorem Dma.OneShot.ptr_forward {rate n k : Nat} {d : Dma} (h : d.OneShot rate n) (hk : k ≤ n) :
    (d.forward k).ptr.toNat = d.ptr.toNat + k := by
  have hbytes := h.bytes
  have hend := d.curEnd.isLt
  exact Nat.mod_eq_of_lt (show d.ptr.toNat + k < 2 ^ 24 by omega)

theorem Dma.OneShot.forward {rate n k : Nat} {d : Dma} (h : d.OneShot rate n) (hk : k ≤ n) :
    (d.forward k).OneShot rate (n - k) := by
  refine ⟨h.positive, h.rate, h.mono, h.ctrl, h.dacc, ?_⟩
  rw [h.ptr_forward hk, Nat.add_assoc, Nat.add_sub_cancel' hk]
  exact h.bytes

theorem Dma.OneShot.forward_forward {rate n k : Nat} {d : Dma} (h : d.OneShot rate n) (hk : k ≤ n) (j : Nat) :
    (d.forward k).forward j = d.forward (k + j) := by
  rw [Dma.forward, h.ptr_forward hk, Nat.add_assoc]
  rfl

/-- The sample is the byte at the pointer, which lies in RAM. -/
theorem Dma.OneShot.sample_value {rate n : Nat} {d : Dma} (h : d.OneShot rate n) (mem : Memory) (m : Mfp) :
    (dmaSample rate mem d m).2 = (mem.read d.ptr.toNat).toInt * 64 := by
  have hbytes := h.bytes
  have hend := d.curEnd.isLt
  rw [dmaSample_playing h.playing]
  show d.frameValue mem * 64 = _
  rw [Dma.frameValue_eq, if_pos h.mono, dmaFetch_toInt, if_pos (by omega)]

theorem Dma.OneShot.advanceOnce {rate n : Nat} {d : Dma} (h : d.OneShot rate (n + 1)) (m : Mfp) :
    Dma.advanceOnce (d, m) = if n = 0 then ({ d.forward 1 with ctrl := 0 }, m.event .a) else (d.forward 1, m) := by
  have hmoved : d.moved = d.forward 1 := d.moved_eq_forward.trans (congrArg d.forward (if_pos h.mono))
  have hend : (d.forward 1).curEnd.toNat ≤ (d.forward 1).ptr.toNat ↔ n = 0 := by
    rw [h.ptr_forward (Nat.le_add_left 1 n), show (d.forward 1).curEnd.toNat = d.ptr.toNat + (n + 1) from h.bytes.symm]
    omega
  have hstop : (d.forward 1).endOfFrame = { d.forward 1 with ctrl := 0 } := by
    rw [Dma.endOfFrame_eq, show (d.forward 1).ctrl = 1 from h.ctrl]
    rfl
  unfold Dma.advanceOnce
  rw [if_neg (by rw [h.playing]; decide), hmoved, hstop]
  exact if_congr hend rfl rfl

theorem Dma.carrying_of_dacc {d : Dma} {x : Nat} (h : d.dacc = x) : d.carrying x = d := by
  subst h
  rfl

/-- A sample moves the pointer by one byte, and the last one ends the frame. -/
theorem Dma.OneShot.sample_units {rate n : Nat} {d : Dma} (h : d.OneShot rate (n + 1)) (mem : Memory) (m : Mfp) :
    (dmaSample rate mem d m).1 =
      if n = 0 then ({ d.forward 1 with ctrl := 0 }, m.event .a) else (d.forward 1, m) := by
  rw [dmaSample_playing h.playing, h.dacc, h.rate, Nat.zero_add, Nat.div_self h.positive, Nat.mod_self]
  dsimp only [times]
  rw [ite_self, h.advanceOnce]
  split <;> exact Prod.ext (Dma.carrying_of_dacc h.dacc) rfl

/-- Before the last sample only the pointer has moved. -/
theorem Dma.OneShot.times_sample {rate n k : Nat} {d : Dma} (h : d.OneShot rate n) (hk : k < n) (mem : Memory)
    (m : Mfp) : times (fun x => (dmaSample rate mem x.1 x.2).1) k (d, m) = (d.forward k, m) := by
  induction k with
  | zero => rw [d.forward_zero]; rfl
  | succ k ih =>
    have here : (d.forward k).OneShot rate (n - k - 1 + 1) := by
      rw [Nat.sub_add_cancel (by omega)]
      exact h.forward (by omega)
    rw [times_succ, ih (by omega)]
    dsimp only
    rw [here.sample_units, if_neg (by omega), h.forward_forward (by omega)]

/-- Settles O38: the samples before the last move the pointer, and the last one ends the frame. -/
theorem oneShotFramePlaysOnce : Obligations.OneShotFramePlaysOnce := by
  intro rate mem d m L k hpos hL hrate hmono hctrl hdacc hbytes hk after
  have h : d.OneShot rate L := ⟨hpos, hrate, hmono, hctrl, hdacc, hbytes⟩
  have inside {j : Nat} (hj : j < L) : after j = (d.forward j, m) := h.times_sample hj mem m
  refine ⟨?_, by rw [inside hk], ?_⟩
  · rw [inside hk, (h.forward hk.le).sample_value, h.ptr_forward hk.le]
  · obtain ⟨K, rfl⟩ : ∃ K, L = K + 1 := ⟨L - 1, by omega⟩
    have last : (d.forward K).OneShot rate (0 + 1) := by simpa using h.forward (Nat.le_succ K)
    show times _ (K + 1) (d, m) = _
    rw [times_succ]
    show (dmaSample rate mem (after K).1 (after K).2).1 = _
    rw [inside (Nat.lt_succ_self K), last.sample_units, if_pos rfl, h.forward_forward (Nat.le_succ K), ← hbytes]
    rfl

end Sys2Proof.Machine
end

section
/-! Startup, Load and the commands a machine refuses (45 R331 to R333, R341, R370, R371, 70 R440). What Startup
leaves is written out once (`State.startup_eq`), and RAM that agrees with reset RAM on the bytes of the sentinels
and the cookies holds them (`Memory.Services.congr`). -/

namespace Sys2Proof.Machine

open Sys2Proof

/-! ## RAM after Startup (45 R332, R333) -/

/-- The sentinels of 45 R332 and the cookie list of 45 R333 stand in RAM. -/
def Memory.Services (m : Memory) : Prop :=
  m.read16 0x500 = 0x4E70 ∧ m.read16 0x502 = 0x4E70 ∧ m.read32 0x5A0 = 0x600 ∧
    m.read32 0x600 = 0x5F4D4348 ∧ m.read32 0x604 = 0x00010000 ∧ m.read32 0x608 = 0x5F534E44 ∧
    m.read32 0x60C = 3 ∧ m.read32 0x610 = 0 ∧ m.read32 0x614 = 4

theorem Memory.services_atReset : Memory.atReset.Services := by
  unfold Memory.Services
  decide

/-- The services lie in the bytes 0x500 to 0x617. -/
theorem Memory.Services.congr {m m' : Memory} (h : m'.Services)
    (agree : ∀ a, 0x500 ≤ a → a < 0x618 → m.read a = m'.read a) : m.Services := by
  have half {a : Nat} (lo : 0x500 ≤ a) (hi : a + 2 ≤ 0x618) : m.read16 a = m'.read16 a :=
    Memory.read16_congr fun k _ _ => agree k (by omega) (by omega)
  have long {a : Nat} (lo : 0x500 ≤ a) (hi : a + 4 ≤ 0x618) : m.read32 a = m'.read32 a :=
    Memory.read32_congr fun k _ _ => agree k (by omega) (by omega)
  unfold Memory.Services at h ⊢
  simpa only [half, long, Nat.reduceLeDiff, Nat.reduceAdd] using h

/-! ## Startup (45 R331) -/

/-- What Startup leaves; the parameters, the loader's inputs, the operands and the answers stay. -/
theorem State.startup_eq (s : State) (rate : Nat) :
    s.startup rate = { s with
      started := true, hostRate := rate, psg := Psg.resetOf s.params, mfp := Mfp.atReset, dma := Dma.atReset,
      mem := Memory.atReset, exit := .none, exitInfo := 0, bump := 0x300000, busy := false, irqFailed := false,
      sessionFault := false, faultCode := .none, faultInfo := 0,
      seq := { s.seq with tickAcc := 0, curSubsong := 0 }, cpu := ⟨0, 0, 0x2700, none⟩ } := by
  have hmem : Memory.installCookies (Memory.installSentinels []) = Memory.atReset := s.startup_mem rate
  have hvec : Memory.atReset.read32 0 = 0 ∧ Memory.atReset.read32 4 = 0 := by decide
  unfold State.startup State.pulseReset State.withCpu
  dsimp only
  rw [hmem, hvec.1, hvec.2]
  rfl

theorem exec_startup {s : State} (hb : s.busy = false) {r : Long} (hr : Config.hostRateOk r.toNat = true) :
    exec (.cmdStartup r) s = .next ((s.startup r.toNat).answer .ok .none) := by
  show execCmdStartup r s = _
  unfold execCmdStartup
  rw [if_neg (by simp [hb]), if_pos hr]

theorem hostRateOk_eq_false {r : Nat} (h : r < 1 ∨ 250000 < r) : Config.hostRateOk r = false := by
  rw [← Bool.not_eq_true, hostRateOk_iff]
  omega

theorem exec_startup_refused {s : State} {r : Long} (h : s.busy = true ∨ Config.hostRateOk r.toNat = false) :
    exec (.cmdStartup r) s = .next (s.answer .refused .none) := by
  show execCmdStartup r s = _
  unfold execCmdStartup
  cases hb : s.busy with
  | true => rfl
  | false => rw [h.resolve_left (by simp [hb])]; rfl

/-- Settles O39: Startup is performed, and RAM is reset RAM. -/
theorem startupResetsMachine : Obligations.StartupResetsMachine := by
  intro s r hb hlo hhi
  obtain ⟨rts, rte, jar, id0, value0, id1, value1, id2, value2⟩ := Memory.services_atReset
  refine ⟨_, exec_startup hb ((hostRateOk_iff _).2 ⟨hlo, hhi⟩), ?_⟩
  rw [State.startup_eq]
  exact ⟨rfl, rts, rte, jar, id0, value0, id1, value1, id2, value2, fun _ => Memory.read_atReset_other⟩

/-! ## Load (45 R370) -/

theorem exec_load_busy {s : State} (hb : s.busy = true) (secs : Long) :
    exec (.cmdLoad secs) s = .next (s.answer .refused .none) := by
  show execCmdLoad secs s = _
  unfold execCmdLoad
  rw [if_pos hb]
  rfl

theorem exec_load_absent {s : State} (hb : s.busy = false) (hm : s.oob.song = none) (secs : Long) :
    exec (.cmdLoad secs) s = .next s.loadFailed := by
  show execCmdLoad secs s = _
  unfold execCmdLoad
  rw [if_neg (by simp [hb]), hm]

/-- An idle machine's Load, by the loader's verdict and the rate (45 R370). -/
theorem exec_load {s : State} (hb : s.busy = false) (secs : Long) {m : SongModule} (hm : s.oob.song = some m) :
    exec (.cmdLoad secs) s = .next (if m.acceptable = false then s.loadFailed
      else if Config.hostRateOk s.oob.hostRate = true then s.loadModule m secs else s.answer .refused .none) := by
  show execCmdLoad secs s = _
  unfold execCmdLoad
  rw [if_neg (by simp [hb]), hm]
  dsimp only
  cases m.acceptable <;> cases Config.hostRateOk s.oob.hostRate <;> rfl

/-- Load of a module is Startup with the module's fields beside it. -/
theorem State.loadModule_eq (s : State) (m : SongModule) (secs : Long) :
    s.loadModule m secs = { (s.startup s.oob.hostRate).answer .ok .none with seq := {
      loaded := true, subsongCount := m.subsongCount, duration := m.duration, tickRate := m.tickRate,
      image := m.image, defaultDurationSeconds := secs, curSubsong := 0, tickAcc := 0 } } := rfl

/-! ## Refused commands (45 R341, 70 R440) -/

/-- A command that needs a Startup is performed under `State.command`. -/
theorem exec_eq_command {i : Instr} (hi : needsStartup i = true) (s : State) : ∃ f, exec i s = s.command f := by
  cases i
  case cmdGetSubsongInfo | cmdInitSubSong | cmdAudioRender | cmdRunUntilReturn | cmdComputeNextSample
      | cmdPsgWriteRegister | cmdPsgTick | cmdPsgComputeNextSample | cmdPsgInsideTimerIrq | cmdPsgReset | cmdTimerTick
      | cmdTimerReset | cmdTimerAcknowledge | cmdTimerEvent | cmdDmaComputeNextSample | cmdDmaReset =>
    unfold exec
    exact ⟨_, rfl⟩
  all_goals cases hi

theorem exec_refused {s : State} (h : s.busy = true ∨ s.started = false) {i : Instr} (hi : needsStartup i = true) :
    exec i s = .next (s.answer .refused .none) := by
  obtain ⟨f, hf⟩ := exec_eq_command hi s
  exact hf.trans (State.command_refused h f)

theorem exec_runUntilReturn {s : State} (h : s.ready) :
    exec .cmdRunUntilReturn s = .next (if s.oob.frames = 0 then s.answer .refused .none
      else s.enterRun .host s.oob.entry s.oob.path s.oob.frames s.oob.d0) := by
  show execCmdRunUntilReturn s = _
  exact State.command_ready h _

/-- Settles O40: by command, the operand's range first. -/
theorem refusedCommandsChangeNothing : Obligations.RefusedCommandsChangeNothing := by
  intro s i r secs
  refine ⟨fun hr => exec_startup_refused (.inr (hostRateOk_eq_false hr)), fun h h0 => ?_, fun m hm hok hr => ?_,
    fun h hi => exec_refused h hi, fun hb => ⟨exec_startup_refused (.inl hb), exec_load_busy hb r⟩⟩
  · rw [exec_runUntilReturn h, if_pos h0]
  · cases hb : s.busy with
    | true => exact exec_load_busy hb secs
    | false => rw [exec_load hb secs hm, if_neg (by simp [hok]), if_neg (by simp [hostRateOk_eq_false hr])]

/-! ## The metadata of a subsong (45 R371) -/

theorem State.hasSubsong_iff (s : State) (id : Nat) :
    s.hasSubsong id = true ↔ s.seq.loaded = true ∧ 1 ≤ id ∧ id ≤ s.seq.subsongCount := by
  simp [State.hasSubsong, and_assoc]

theorem State.hasSubsong_eq_false {s : State} {id : Nat}
    (h : s.seq.loaded = false ∨ id < 1 ∨ s.seq.subsongCount < id) : s.hasSubsong id = false := by
  rw [← Bool.not_eq_true, State.hasSubsong_iff]
  rintro ⟨hl, hlo, hhi⟩
  rcases h with h | h
  · rw [hl] at h; cases h
  · omega

theorem exec_getSubsongInfo {s : State} (h : s.ready) (id : Long) :
    exec (.cmdGetSubsongInfo id) s = .next (if s.hasSubsong id.toNat then s.answer .ok (.info (s.subsongInfo id.toNat))
      else s.answer .failInvalid .none) := by
  show execCmdGetSubsongInfo id s = _
  exact State.command_ready h _

/-- Settles O47: Load by the loader's verdict, the metadata by whether the subsong is there. -/
theorem loadAndSubsongInfo : Obligations.LoadAndSubsongInfo := by
  refine ⟨fun s secs hb => ⟨?_, ?_⟩, fun s id h => ⟨fun hid => ?_, fun hl hlo hhi => ?_⟩⟩
  · rintro (hm | ⟨m, hm, hbad⟩)
    · exact exec_load_absent hb hm secs
    · have hno : m.acceptable = false := by
        rw [← Bool.not_eq_true, SongModule.acceptable_iff]
        rintro ⟨hheader, hpos, hmax, hrate, -⟩
        rcases hbad with hbad | hbad
        · rw [hheader] at hbad; cases hbad
        · omega
      rw [exec_load hb secs hm, if_pos hno]
      rfl
  · intro m hm hheader hpos hmax hrate hlen hlo hhi
    have hok := (SongModule.acceptable_iff m).2 ⟨hheader, hpos, hmax, Nat.one_le_iff_ne_zero.1 hrate, hlen⟩
    have hrateOk := (hostRateOk_iff _).2 ⟨hlo, hhi⟩
    have hfit : (BitVec.ofNat 32 s.oob.hostRate).toNat = s.oob.hostRate := by
      rw [BitVec.toNat_ofNat]
      omega
    refine ⟨s.loadModule m secs, (s.startup s.oob.hostRate).answer .ok .none, ?_, ?_, s.loadModule_eq m secs⟩
    · rw [exec_load hb secs hm, if_neg (by simp [hok]), if_pos hrateOk]
    · rw [exec_startup hb (by rw [hfit, hrateOk]), hfit]
  · rw [exec_getSubsongInfo h, if_neg (by simp [State.hasSubsong_eq_false hid])]
  · rw [exec_getSubsongInfo h, if_pos ((s.hasSubsong_iff _).2 ⟨hl, hlo, hhi⟩)]
    rfl

end Sys2Proof.Machine
end

section
/-! The bounded executions of the host and of InitSubSong, from their entry to their end, and the callbacks inside
one (45 R340 to R345, R352, R372, R373). A run is entered through `Memory.runEntered`; its end hands the outcome to
the caller (`step_runEnds`). -/

namespace Sys2Proof.Machine

open Sys2Proof

/-! ## The entry of a run (45 R340) -/

/-- The vector leaves the RTS frame. -/
theorem Memory.runEntered_frame_rts {m : Memory} (h : m.wf = true) (entry : Addr) :
    (m.runEntered .rts entry).read32 0xFFFC = 0x500 :=
  (Memory.read32_congr fun _ _ _ => Memory.read_setVector _ _ _ (by omega)).trans (Memory.frame_rts h)

/-- What the entry of a run changes when RAM is canonical: the pulse reads the vector just written. -/
theorem State.enterRun_eq_of_wf {s : State} (h : s.mem.wf = true) (c : Caller) (entry : Addr) (path : Path)
    (frames : Nat) (d0 : Option Long) :
    s.enterRun c entry path frames d0 = { s with
      busy := true, exit := .none, exitInfo := 0, mem := s.mem.runEntered path entry, run := ⟨c, frames⟩,
      cpu := ⟨BitVec.ofNat 32 (frameBase path), entry.setWidth 32, 0x2700, d0⟩,
      out := { s.out with result := .pending, value := .none } } := by
  obtain ⟨hsp, hpc⟩ := Memory.runEntered_vector h path entry
  rw [← hsp, ← hpc]
  rfl

/-- Settles O41: the run is entered, and RAM is read through the frame and the vector. -/
theorem runEntryBuildsFrame : Obligations.RunEntryBuildsFrame := by
  intro s h hmem hframes sp
  have hsp : sp = frameBase s.oob.path := (frameBase_eq _).symm
  clear_value sp
  subst hsp
  obtain ⟨hvec, hentry⟩ := Memory.runEntered_vector hmem s.oob.path s.oob.entry
  refine ⟨s.mem.runEntered s.oob.path s.oob.entry, ?_, hvec, hentry, fun hp => ?_, fun hp => ?_,
    fun _ h8 => s.mem.read_runEntered_other _ _ h8⟩
  · rw [exec_runUntilReturn h, if_neg (by omega), State.enterRun_eq_of_wf hmem]
  · rw [hp]
    exact Memory.runEntered_frame_rts hmem _
  · rw [hp]
    exact Memory.runEntered_frame_rte hmem _

/-! ## The slices and the end of a run (45 R342, 60 R402, R403) -/

theorem step_nextSlice {s : State} {c : Nat} {rest : List Input} (hin : s.inputs = .agentReturn c :: rest)
    (hb : s.busy = true) (hx : s.exit = .none) (hc : 160000 ≤ c) (hl : 1 < s.run.framesLeft) :
    step s = .next { s with inputs := rest, run := { s.run with framesLeft := s.run.framesLeft - 1 } } := by
  rw [step_agentReturn hin]
  unfold State.agentReturn
  rw [frameCycles_eq, if_neg (by simp [hb]), if_neg (by omega), if_pos ⟨hx, hl⟩]

theorem step_earlyReturn {s : State} {c : Nat} {rest : List Input} (hin : s.inputs = .agentReturn c :: rest)
    (hb : s.busy = true) (hx : s.exit = .none) (hc : c < 160000) : step s = .fault .agentContract := by
  rw [step_agentReturn hin]
  unfold State.agentReturn
  rw [frameCycles_eq, if_neg (by simp [hb]), if_pos ⟨hx, hc⟩]

theorem State.runEnded_clean {s : State} (h : s.exit = .none ∨ s.exit = .sentinel) :
    s.runEnded = { s with busy := false, run := ⟨.host, 0⟩ } := if_pos h

theorem State.runEnded_fatal {s : State} (h : ¬ (s.exit = .none ∨ s.exit = .sentinel)) :
    s.runEnded = { s with
      busy := false, run := ⟨.host, 0⟩, sessionFault := true, faultCode := s.exit, faultInfo := s.exitInfo } := if_neg h

theorem ExitCode.fatal_iff (c : ExitCode) : c.fatal = true ↔ c ≠ .none ∧ c ≠ .sentinel := by
  cases c <;> decide

/-- The end of a run the host asked for. -/
theorem step_hostRunEnds {s : State} {c : Nat} {rest : List Input} (hin : s.inputs = .agentReturn c :: rest)
    (hb : s.busy = true) (hcaller : s.run.caller = .host) (h : s.runEnds c) :
    step s = .next (State.answer { s.runEnded with inputs := rest } s.runResult .none) := by
  rw [step_runEnds hin hb h, hcaller]
  unfold State.runEnded
  split <;> rfl

/-- Settles O43: a slice, an early return, and the three ends. -/
theorem hostRunOutcome : Obligations.HostRunOutcome := by
  intro s c rest hin hb
  refine ⟨step_nextSlice hin hb, step_earlyReturn hin hb, fun hcaller =>
    ⟨fun hx => ?_, fun hx hns => ?_, fun hx hc hl => ?_⟩⟩
  · have result : s.runResult = .ok := if_pos hx
    rw [step_hostRunEnds hin hb hcaller (.inl (by simp [hx])), State.runEnded_clean (.inr hx), result]
  · have result : s.runResult = .failFatal s.exit s.exitInfo :=
      (if_neg hns).trans (if_pos ((ExitCode.fatal_iff _).2 ⟨hx, hns⟩))
    rw [step_hostRunEnds hin hb hcaller (.inl hx), State.runEnded_fatal (by simp [hx, hns]), result]
  · have result : s.runResult = .failTimeout := by simp [State.runResult, hx, ExitCode.fatal]
    rw [step_hostRunEnds hin hb hcaller (.inr ⟨hc, hl⟩), State.runEnded_clean (.inl hx), result]

/-! ## The callbacks (45 R343 to R345, R352) -/

/-- A callback is performed under `State.callback`. -/
theorem exec_eq_callback {i : Instr} (hi : isCallback i = true) (s : State) : ∃ f, exec i s = s.callback f := by
  cases i
  case cbReset | cbIllegal | cbGemdos =>
    unfold exec
    exact ⟨_, rfl⟩
  all_goals cases hi

theorem State.callback_refused {s : State} (hb : s.busy = false) (f : State → Host.Outcome State Fault Refusal) :
    s.callback f = .refused .callbackOutsideRun := by
  simp [State.callback, hb]

/-- Settles O45: by callback. -/
theorem callbackConditions : Obligations.CallbackConditions := by
  intro s pc op fn
  refine ⟨fun hb => ⟨?_, ?_, ?_, fun hmalloc hversion => ?_⟩, fun hb i hi => ?_⟩
  · show execCbReset pc s = _
    unfold execCbReset
    rw [State.callback_running hb]
    split <;> rfl
  · show execCbIllegal op s = _
    unfold execCbIllegal
    rw [State.callback_running hb, State.raise_eq]
  · show execCbGemdos 0x30 s = _
    unfold execCbGemdos
    rw [State.callback_running hb, if_neg (by decide), if_pos rfl]
    rfl
  · show execCbGemdos fn s = _
    unfold execCbGemdos
    rw [State.callback_running hb, if_neg hmalloc, if_neg hversion, State.raise_eq]
  · obtain ⟨f, hf⟩ := exec_eq_callback hi s
    exact hf.trans (State.callback_refused hb f)

/-! ## InitSubSong (45 R372, R373) -/

theorem exec_initSubSong {s : State} (h : s.ready) (id : Long) :
    exec (.cmdInitSubSong id) s = .next (if s.hasSubsong id.toNat = true ∧ s.seq.image.length ≤ 0x3F0000 then
      s.beginSubsong id else s.answer .failInvalid .none) := by
  show execCmdInitSubSong id s = _
  unfold execCmdInitSubSong
  rw [State.command_ready h]
  simp [Config.ramSize, Config.loadAddr]

/-- Reset RAM with the image at `LOAD_ADDR`. -/
def Memory.withImage (image : List Byte) : Memory := Memory.atReset.writeBytes 0x10000 image

theorem Memory.wf_withImage {image : List Byte} (h : image.length ≤ 0x3F0000) : (Memory.withImage image).wf = true :=
  Memory.wf_writeBytes Memory.wf_atReset image 0x10000 (by rw [ramSize_eq]; omega)

/-- RAM when init begins: the image, then the frame and the vector of the run. -/
def Memory.initEntered (image : List Byte) : Memory := (Memory.withImage image).runEntered .rts 0x10000

/-- Outside the image, the frame and the vector RAM is reset RAM. -/
theorem Memory.read_initEntered_other (image : List Byte) {a : Nat} (h8 : 8 ≤ a)
    (h : a < 0xFFFC ∨ 0x10000 + image.length ≤ a) : (Memory.initEntered image).read a = Memory.atReset.read a :=
  (Memory.read_runEntered_other _ .rts _ h8 (h.imp_right (by omega))).trans
    (Memory.read_writeBytes_other _ _ (h.imp_left (by omega)))

theorem Memory.read_initEntered_image {image : List Byte} (hfit : image.length ≤ 0x3F0000) {k : Nat}
    (hk : k < image.length) : (Memory.initEntered image).read (0x10000 + k) = image.getD k 0 :=
  (Memory.read_runEntered_other _ .rts _ (by omega) (.inr (by omega))).trans
    (Memory.read_writeBytes_same Memory.wf_atReset _ _ (by rw [ramSize_eq]; omega) hk)

theorem Memory.services_initEntered (image : List Byte) : (Memory.initEntered image).Services :=
  Memory.services_atReset.congr fun _ _ _ => Memory.read_initEntered_other image (by omega) (by omega)

theorem State.beginSubsong_eq {s : State} (h : s.seq.image.length ≤ 0x3F0000) (id : Long) :
    s.beginSubsong id = { s with
      started := true, psg := Psg.resetOf s.params, mfp := Mfp.atReset, dma := Dma.atReset
      mem := Memory.initEntered s.seq.image
      exit := .none, exitInfo := 0, bump := 0x300000, busy := true, irqFailed := false, sessionFault := false
      faultCode := .none, faultInfo := 0, seq := { s.seq with tickAcc := 0, curSubsong := 0 }
      cpu := ⟨0xFFFC, 0x10000, 0x2700, some id⟩, run := ⟨.init id.toNat, 500⟩
      out := { s.out with result := .pending, value := .none } } := by
  unfold State.beginSubsong
  rw [State.startup_eq]
  dsimp only
  exact State.enterRun_eq_of_wf (Memory.wf_withImage h) ..

/-- Settles O48: a bad operand fails; otherwise RAM is reset RAM, then the image, then the frame and the vector. -/
theorem initSubSongRunsInit : Obligations.InitSubSongRunsInit := by
  intro s id h
  refine ⟨fun hbad => ?_, fun hl hlo hhi hfit => ?_⟩
  · rw [exec_initSubSong h, if_neg]
    rw [State.hasSubsong_iff]
    rintro ⟨⟨hl, hlo, hhi⟩, hfit⟩
    rcases hbad with hbad | hbad
    · rw [hl] at hbad; cases hbad
    · omega
  · obtain ⟨hsp, hpc⟩ := Memory.runEntered_vector (Memory.wf_withImage hfit) .rts 0x10000
    obtain ⟨rts, rte, jar, id0, value0, id1, value1, id2, value2⟩ := Memory.services_initEntered s.seq.image
    refine ⟨s.beginSubsong id, ?_, ?_⟩
    · rw [exec_initSubSong h, if_pos ⟨(s.hasSubsong_iff _).2 ⟨hl, hlo, hhi⟩, hfit⟩]
    · rw [State.beginSubsong_eq hfit]
      exact ⟨rfl, hsp, hpc, Memory.runEntered_frame_rts (Memory.wf_withImage hfit) _,
        fun _ => Memory.read_initEntered_image hfit, rts, rte, jar, id0, value0, id1, value1, id2, value2,
        fun _ ha => (Memory.read_initEntered_other _ (by omega) (by omega)).trans
          (Memory.read_atReset_other (by omega))⟩

/-- The end of init by whether it reached its sentinel. -/
theorem State.finishInit_eq (s : State) (id : Nat) (p : Prop) [Decidable p] :
    s.finishInit id (decide p) = State.answer { s with
      irqFailed := false, seq := { s.seq with tickAcc := s.hostRate, curSubsong := if p then id else 0 } }
      (if p then .ok else s.failResult) .none := by
  unfold State.finishInit
  simp only [decide_eq_true_eq]
  rfl

/-- Settles O49: the outcome goes to `finishInit`. -/
theorem initOutcome : Obligations.InitOutcome := by
  intro s c id rest hin hb hcaller hends b t
  rw [step_runEnds hin hb hends, hcaller]
  exact congrArg _ (State.finishInit_eq _ id (s.exit = .sentinel))

end Sys2Proof.Machine
end

section
/-! The unit resets, and the state after reset (70 R440 to R445). A reset command performs the reset of its unit and
answers OK. The state after reset meets its invariants unit by unit, each at the rate Startup is given. -/

namespace Sys2Proof.Machine

open Sys2Proof

/-! ## The reset commands -/

theorem exec_psgReset {s : State} (h : s.ready) :
    exec .cmdPsgReset s = .next ((s.withPsg (Psg.resetOf s.params)).answer .ok .none) := by
  show execCmdPsgReset s = _
  exact State.command_ready h _

theorem exec_timerReset {s : State} (h : s.ready) :
    exec .cmdTimerReset s = .next ((s.withMfp Mfp.atReset).answer .ok .none) := by
  show execCmdTimerReset s = _
  exact State.command_ready h _

theorem exec_dmaReset {s : State} (h : s.ready) :
    exec .cmdDmaReset s = .next ((s.withDma Dma.atReset).answer .ok .none) := by
  show execCmdDmaReset s = _
  exact State.command_ready h _

/-! ## What a reset leaves (70 R441, R442) -/

theorem Psg.resetOf_regs (q : Config.Params) (i : Fin 14) : (Psg.resetOf q).regs[i] = 0 :=
  Vector.getElem_replicate i.isLt

theorem Psg.resetOf_voice (q : Config.Params) (v : Voice) :
    (Psg.resetOf q).tonePeriod.get v = 0 ∧ (Psg.resetOf q).toneCnt.get v = 0 ∧
      (Psg.resetOf q).needReset.get v = false ∧ (Psg.resetOf q).voiceLvl.get v = 0 :=
  ⟨PerVoice.get_fill 0 v, PerVoice.get_fill 0 v, PerVoice.get_fill false v, PerVoice.get_fill 0 v⟩

theorem Psg.resetOf_dcHist (q : Config.Params) : (Psg.resetOf q).dcHist = List.replicate 2048 0 := rfl

/-- Every register is already 0, and a stopped timer's counter already holds the 256 that 0 stands for. -/
theorem Mfp.write_zero_atReset (r : MfpReg) : Mfp.atReset.write r 0 = Mfp.atReset := by
  cases r <;> rfl

theorem Mfp.atReset_timer (t : Timer) : Mfp.atReset.cnt.get t = 256 ∧ Mfp.atReset.tacc.get t = 0 :=
  ⟨PerTimer.get_fill 256 t, PerTimer.get_fill 0 t⟩

/-- Settles O26: each command leaves its unit as at reset, the PSG with the edges `TONE_EDGE_INIT` names. -/
theorem unitResets : Obligations.UnitResets := by
  intro s h
  refine ⟨⟨_, exec_psgReset h, Psg.resetOf_regs _, rfl, rfl, rfl, Psg.resetOf_voice _, ?rest⟩,
    ⟨_, exec_timerReset h, Mfp.write_zero_atReset, ?registers⟩, exec_dmaReset h⟩
  case rest =>
    iterate 14 refine ⟨rfl, ?_⟩
    refine ⟨?_, ?_, rfl, rfl⟩
    · rw [Psg.resetOf_dcHist, List.length_replicate]
    · rw [Psg.resetOf_dcHist]
      exact fun _ => List.eq_of_mem_replicate
  case registers =>
    iterate 24 refine ⟨rfl, ?_⟩
    exact Mfp.atReset_timer

/-! ## The state after reset (70 R440, R445) -/

theorem State.rateInv_reset : State.reset.RateInv := (hostRateOk_iff 44100).1 rfl

theorem State.bumpInv_reset : State.reset.BumpInv := by
  unfold State.BumpInv
  decide

/-- Settles O60: RAM and the units meet their invariants at any rate R6 allows, no fault is recorded, and no module
is loaded. -/
theorem resetSatisfiesInvariants : Obligations.ResetSatisfiesInvariants :=
  have rate := State.rateInv_reset
  ⟨Memory.wf_atReset, ⟨rate, .atReset rate.1⟩, ⟨rate, .resetAll⟩, ⟨rate, .resetAll rate.1⟩, State.bumpInv_reset,
    ⟨rfl, fun _ => rfl⟩, nofun⟩

end Sys2Proof.Machine
end
